-- ==== Sys2Proof/Word.lean ====
section
/-! DEFINITION. The words of the block: bytes, byte strings, the 32-byte key, the 16-byte cipher block, the 64-bit counter and the 32-bit word of SHA-256 (00_scope.md R7, 10_state.md R10). -/

namespace Sys2Proof

/-- An 8-bit unsigned value; bit 0 is the least significant (00_scope.md R7). -/
abbrev Byte := BitVec 8

/-- A finite sequence of bytes, the first byte at index 0 (00_scope.md R7, 20_memory.md R45). -/
abbrev Bytes := List Byte

/-- A secret key: exactly 32 bytes (10_state.md R11). -/
abbrev Key := Vector Byte 32

/-- A cipher block, the shift register `S` and an IV: exactly 16 bytes (10_state.md R12). -/
abbrev Block := Vector Byte 16

/-- An unsigned 64-bit counter (10_state.md R14). -/
abbrev Ctr := BitVec 64

/-- A 32-bit word of SHA-256 (41_sequence_checksum.md R126). -/
abbrev Word32 := BitVec 32

/-- The largest value of a counter, `2^64 - 1`. -/
def Ctr.max : Ctr := BitVec.allOnes 64

end Sys2Proof
end

