-- ==== Sys2Proof/Syntax.lean ====
section
/-! DEFINITION. The instructions: one constructor per row of spec/opcode_table.json (twelve commands, format CMD; thirteen stages, format STAGE), the pseudo-instructions of 30_encoding.md R70, and what the frame decoder can answer. -/

namespace Sys2Proof

/-- One constructor per row of the opcode table. A command carries its operands whole (20_memory.md R40); a stage carries none: what it works on is in the datapath's latch (10_state.md R24). -/
inductive Instr where
  /-- `RESET`, 0x00. -/
  | reset
  /-- `TX_INIT key, iv`, 0x10. -/
  | txInit (key iv : Bytes)
  /-- `TX_ENCODE payload`, 0x11. -/
  | txEncode (payload : Bytes)
  /-- `TX_CLOSE`, 0x1F. -/
  | txClose
  /-- `RX_INIT key, iv`, 0x20. -/
  | rxInit (key iv : Bytes)
  /-- `RX_DECODE wire`, 0x21. -/
  | rxDecode (wire : Bytes)
  /-- `RX_CLOSE`, 0x2F. -/
  | rxClose
  /-- `RD_TX_STATUS`, 0x30. -/
  | rdTxStatus
  /-- `RD_RX_STATUS`, 0x31. -/
  | rdRxStatus
  /-- `RD_SEND_CTR`, 0x32. -/
  | rdSendCtr
  /-- `RD_RECV_CTR`, 0x33. -/
  | rdRecvCtr
  /-- `RD_MON_STATUS`, 0x34. -/
  | rdMonStatus
  /-- Stage `TX.COMPRESS`, id 0x11. -/
  | txCompress
  /-- Stage `TX.TAG_COMPUTE`, id 0x12. -/
  | txTagCompute
  /-- Stage `TX.TAG_APPEND`, id 0x13. -/
  | txTagAppend
  /-- Stage `TX.CTR_INC`, id 0x14. -/
  | txCtrInc
  /-- Stage `TX.CIPHER_ENCRYPT`, id 0x15. -/
  | txCipherEncrypt
  /-- Stage `TX.EMIT`, id 0x16. -/
  | txEmit
  /-- Stage `RX.CIPHER_DECRYPT`, id 0x21. -/
  | rxCipherDecrypt
  /-- Stage `RX.SPLIT`, id 0x22. -/
  | rxSplit
  /-- Stage `RX.TAG_COMPUTE`, id 0x23. -/
  | rxTagCompute
  /-- Stage `RX.CTR_INC`, id 0x24. -/
  | rxCtrInc
  /-- Stage `RX.TAG_COMPARE`, id 0x25. -/
  | rxTagCompare
  /-- Stage `RX.DECOMPRESS`, id 0x26. -/
  | rxDecompress
  /-- Stage `RX.EMIT`, id 0x27. -/
  | rxEmit
  deriving DecidableEq, Repr

/-- 30_encoding.md R70: the three pseudo-instructions. -/
inductive Pseudo where
  /-- `OPEN key, iv`. -/
  | openConn (key iv : Bytes)
  /-- `OPEN2 key, iv_tx, iv_rx`. -/
  | openConn2 (key ivTx ivRx : Bytes)
  /-- `SHUTDOWN`. -/
  | shutdown
  deriving DecidableEq, Repr

/-- What the command decoder answers on the bytes of a transmission (30_encoding.md R66 to R68). -/
inductive Decoded where
  /-- A whole command, and the bytes that follow its frame. -/
  | command (i : Instr) (rest : Bytes)
  /-- An opcode byte outside R62: the decoder consumes that one byte. -/
  | illegal (op : Byte) (rest : Bytes)
  /-- The bytes end before the frame's last operand is complete (R67). -/
  | malformed
  deriving DecidableEq, Repr

end Sys2Proof
end

