-- ==== Sys2Proof/WellFormed.lean ====
section
/-! DEFINITION. Which instructions can be written as a frame: each operand's length fits the 32-bit length field (30_encoding.md R63). Key and IV lengths are NOT checked here: other lengths are well-formed frames that the command rejects (R63). -/

namespace Sys2Proof

/-- R63: an operand that a serialised frame can carry, at most `2^32 - 1` bytes. -/
def Operand.wf (b : Bytes) : Bool := decide (b.length < 2 ^ 32)

/-- Every operand fits its length field; the commands and stages without operands are well formed. -/
def Instr.wf : Instr → Bool
  | .txInit key iv => Operand.wf key && Operand.wf iv
  | .txEncode payload => Operand.wf payload
  | .rxInit key iv => Operand.wf key && Operand.wf iv
  | .rxDecode wire => Operand.wf wire
  | .reset => true
  | .txClose => true
  | .rxClose => true
  | .rdTxStatus => true
  | .rdRxStatus => true
  | .rdSendCtr => true
  | .rdRecvCtr => true
  | .rdMonStatus => true
  | .txCompress => true
  | .txTagCompute => true
  | .txTagAppend => true
  | .txCtrInc => true
  | .txCipherEncrypt => true
  | .txEmit => true
  | .rxCipherDecrypt => true
  | .rxSplit => true
  | .rxTagCompute => true
  | .rxCtrInc => true
  | .rxTagCompare => true
  | .rxDecompress => true
  | .rxEmit => true

/-- The rows of format CMD: what the host can issue (30_encoding.md R62, R76). -/
def Instr.isCommand : Instr → Bool
  | .reset => true
  | .txInit _ _ => true
  | .txEncode _ => true
  | .txClose => true
  | .rxInit _ _ => true
  | .rxDecode _ => true
  | .rxClose => true
  | .rdTxStatus => true
  | .rdRxStatus => true
  | .rdSendCtr => true
  | .rdRecvCtr => true
  | .rdMonStatus => true
  | .txCompress => false
  | .txTagCompute => false
  | .txTagAppend => false
  | .txCtrInc => false
  | .txCipherEncrypt => false
  | .txEmit => false
  | .rxCipherDecrypt => false
  | .rxSplit => false
  | .rxTagCompute => false
  | .rxCtrInc => false
  | .rxTagCompare => false
  | .rxDecompress => false
  | .rxEmit => false

end Sys2Proof
end

