-- ==== Sys2Proof/Decode.lean ====
section
/-! DEFINITION. The command decoder, the stage identifiers, the encoder, and the byte-order helpers they use (30_encoding.md R60 to R68, R76). -/

namespace Sys2Proof

/-- `n` bytes of a natural number, least significant first: `LE16`, `LE32`, `LE64` are `n = 2, 4, 8` (00_scope.md R7). -/
def leBytes : Nat → Nat → Bytes
  | 0, _ => []
  | n + 1, v => BitVec.ofNat 8 v :: leBytes n (v / 256)

/-- `FromLE` (00_scope.md R7). -/
def fromLE : Bytes → Nat
  | [] => 0
  | b :: bs => b.toNat + 256 * fromLE bs

/-- One operand, `LE32(n)` then `n` bytes, and what follows it (R60, R63); none if the bytes end too early (R67). -/
def takeOperand : Bytes → Option (Bytes × Bytes)
  | b0 :: b1 :: b2 :: b3 :: rest =>
      let n := fromLE [b0, b1, b2, b3]
      if n ≤ rest.length then some (rest.take n, rest.drop n) else none
  | _ => none

/-- A command of one operand. -/
def decodeOne (f : Bytes → Instr) (bs : Bytes) : Decoded :=
  match takeOperand bs with
  | some (a, rest) => .command (f a) rest
  | none => .malformed

/-- A command of two operands. -/
def decodeTwo (f : Bytes → Bytes → Instr) (bs : Bytes) : Decoded :=
  match takeOperand bs with
  | some (a, rest) =>
      match takeOperand rest with
      | some (b, rest') => .command (f a b) rest'
      | none => .malformed
  | none => .malformed

/-- R62, R66 to R68: the command at the head of a transmission. Total; every other opcode byte is illegal. -/
def decodeFrame : Bytes → Decoded
  | [] => .malformed
  | op :: rest =>
    match op.toNat with
    | 0x00 => .command .reset rest
    | 0x10 => decodeTwo .txInit rest
    | 0x11 => decodeOne .txEncode rest
    | 0x1F => .command .txClose rest
    | 0x20 => decodeTwo .rxInit rest
    | 0x21 => decodeOne .rxDecode rest
    | 0x2F => .command .rxClose rest
    | 0x30 => .command .rdTxStatus rest
    | 0x31 => .command .rdRxStatus rest
    | 0x32 => .command .rdSendCtr rest
    | 0x33 => .command .rdRecvCtr rest
    | 0x34 => .command .rdMonStatus rest
    | _ => .illegal op rest

/-- R76: the stage with a given identifier, matched on the whole byte. Never consulted for a host's bytes: the host cannot issue a stage. -/
def decodeStage (id : Byte) : Option Instr :=
  match id.toNat with
  | 0x11 => some .txCompress
  | 0x12 => some .txTagCompute
  | 0x13 => some .txTagAppend
  | 0x14 => some .txCtrInc
  | 0x15 => some .txCipherEncrypt
  | 0x16 => some .txEmit
  | 0x21 => some .rxCipherDecrypt
  | 0x22 => some .rxSplit
  | 0x23 => some .rxTagCompute
  | 0x24 => some .rxCtrInc
  | 0x25 => some .rxTagCompare
  | 0x26 => some .rxDecompress
  | 0x27 => some .rxEmit
  | _ => none

/-- The opcode byte of a command (R62) or the identifier of a stage (R76): the table's `match`. -/
def Instr.opcode : Instr → Byte
  | .reset => 0x00#8
  | .txInit _ _ => 0x10#8
  | .txEncode _ => 0x11#8
  | .txClose => 0x1F#8
  | .rxInit _ _ => 0x20#8
  | .rxDecode _ => 0x21#8
  | .rxClose => 0x2F#8
  | .rdTxStatus => 0x30#8
  | .rdRxStatus => 0x31#8
  | .rdSendCtr => 0x32#8
  | .rdRecvCtr => 0x33#8
  | .rdMonStatus => 0x34#8
  | .txCompress => 0x11#8
  | .txTagCompute => 0x12#8
  | .txTagAppend => 0x13#8
  | .txCtrInc => 0x14#8
  | .txCipherEncrypt => 0x15#8
  | .txEmit => 0x16#8
  | .rxCipherDecrypt => 0x21#8
  | .rxSplit => 0x22#8
  | .rxTagCompute => 0x23#8
  | .rxCtrInc => 0x24#8
  | .rxTagCompare => 0x25#8
  | .rxDecompress => 0x26#8
  | .rxEmit => 0x27#8

/-- R61: the unit nibble of an opcode byte. -/
def opUnit (op : Byte) : BitVec 4 := op.extractLsb' 4 4

/-- R61: the function nibble of an opcode byte. -/
def opFn (op : Byte) : BitVec 4 := op.extractLsb' 0 4

/-- The operands of an instruction, in frame order (R60, R62). -/
def Instr.operands : Instr → List Bytes
  | .txInit key iv => [key, iv]
  | .txEncode payload => [payload]
  | .rxInit key iv => [key, iv]
  | .rxDecode wire => [wire]
  | .reset => []
  | .txClose => []
  | .rxClose => []
  | .rdTxStatus => []
  | .rdRxStatus => []
  | .rdSendCtr => []
  | .rdRecvCtr => []
  | .rdMonStatus => []
  | .txCompress => []
  | .txTagCompute => []
  | .txTagAppend => []
  | .txCtrInc => []
  | .txCipherEncrypt => []
  | .txEmit => []
  | .rxCipherDecrypt => []
  | .rxSplit => []
  | .rxTagCompute => []
  | .rxCtrInc => []
  | .rxTagCompare => []
  | .rxDecompress => []
  | .rxEmit => []

/-- R60, R63: `LE32(n) ‖ n bytes`. -/
def encodeOperand (b : Bytes) : Bytes := leBytes 4 b.length ++ b

/-- R60: the frame of a command; the one identifier byte of a stage (R76). -/
def encode (i : Instr) : Bytes := i.opcode :: (i.operands.map encodeOperand).flatten

/-- R70: what a pseudo-instruction expands to. -/
def Pseudo.expand : Pseudo → List Instr
  | .openConn key iv => [.txInit key iv, .rxInit key iv]
  | .openConn2 key ivTx ivRx => [.txInit key ivTx, .rxInit key ivRx]
  | .shutdown => [.txClose, .rxClose]

/-- The bytes of a table word: `nbits` bits of `w`, first byte lowest, then zeros up to the longest command with empty operands (9 bytes). -/
def tableBytes (nbits w : Nat) : Bytes := leBytes (nbits / 8) w ++ List.replicate 8 0#8

/-- The instruction a table word stands for: the command decoder's answer; where that byte is no opcode, the stage of that identifier (notes/assumptions/6.md). -/
def decodeTableWord (nbits w : Nat) : Option Instr :=
  match decodeFrame (tableBytes nbits w) with
  | .command i _ => some i
  | .illegal op _ => decodeStage op
  | .malformed => none

end Sys2Proof
end

