-- ==== Sys2Proof/Machine/State.lean ====
section
/-! DEFINITION. Everything the spec gives the machine to hold (10_state.md R10 to R28), what is in flight inside a command (R24), the command port, and the outcomes a step can stop with. -/

namespace Sys2Proof.Machine

/-- The two directions (00_scope.md R9): TX is unit 1, RX is unit 2 (30_encoding.md R61). -/
inductive Side where
  | tx
  | rx
  deriving DecidableEq, Repr

/-- R15: `dir.status`. The value 3 of the 2-bit field is never produced (U10), so there is no fourth name. -/
inductive Status where
  /-- 0: no pipeline exists. -/
  | unconfigured
  /-- 1: the pipeline takes TX_ENCODE or RX_DECODE. -/
  | ready
  /-- 2: a fatal error has ended the pipeline. -/
  | dead
  deriving DecidableEq, Repr

/-- 30_encoding.md R65: the status and error codes; codes 0x07 and 0x0A to 0xFF do not exist. -/
inductive Code where
  | ok
  | configurationError
  | checksumMismatch
  | compressionError
  | cipherError
  | shortPacket
  | counterOverflow
  | illegalCommand
  | illegalState
  deriving DecidableEq, Repr

/-- R10: the record of one direction. -/
structure Dir where
  /-- R15, 2 bits. -/
  status : Status
  /-- R16, 4 bits: the code of the fatal error that made the direction DEAD, else 0. -/
  err : BitVec 4
  /-- R11: the secret key. -/
  key : Key
  /-- R12: the shift register `S`. -/
  shift : Block
  /-- R14: the send or the receive counter. -/
  ctr : Ctr
  deriving DecidableEq, Repr

/-- 30_encoding.md R75, 60_exceptions.md R253 to R255: the three kinds of event. -/
inductive Event where
  | onEncoded (wire : Bytes)
  | onDecoded (payload : Bytes)
  | onError (dir : Side) (code : Code)
  deriving DecidableEq, Repr

/-- 30_encoding.md R64: the one response of a command. -/
structure Response where
  status : Code
  data : Bytes
  deriving DecidableEq, Repr

/-- What leaves the block, in order: an event stands before the response of its command (60_exceptions.md R252). -/
inductive Output where
  | event (e : Event)
  | response (r : Response)
  deriving DecidableEq, Repr

/-- R24: what TX_ENCODE holds between two of its stages. Each constructor is named after the stage that is due and carries what the stages before it have computed. -/
inductive TxFlight where
  | compress (payload : Bytes)
  | tagCompute (c : Bytes)
  | tagAppend (c t : Bytes)
  | ctrInc (pkt : Bytes)
  | cipherEncrypt (pkt : Bytes)
  | emit (wire : Bytes)
  deriving DecidableEq, Repr

/-- R24: what RX_DECODE holds between two of its stages. -/
inductive RxFlight where
  | cipherDecrypt (wire : Bytes)
  | split (pkt : Bytes)
  | tagCompute (c r : Bytes)
  | ctrInc (c r x : Bytes)
  /-- RX.CTR_INC is due for a packet too short to split (45_counter_monitor_and_control.md R222). -/
  | ctrIncShort
  | tagCompare (c r x : Bytes)
  | decompress (c : Bytes)
  | emit (payload : Bytes)
  deriving DecidableEq, Repr

/-- The environment of one direction's cipher transform, outside the block (R27, 60_exceptions.md R270). -/
structure Env where
  /-- The answers of `CIPHER_FAULT(dir)` still to come, oldest first; none left means false, the default. -/
  faults : List Bool
  /-- How many free values this direction has drawn. -/
  draws : Nat
  deriving DecidableEq, Repr

/-- 00_scope.md R5: the three size bounds of the implementation, each unbounded by default; no command changes them. -/
structure Limits where
  maxPayload : Option Nat
  maxWire : Option Nat
  maxInflate : Option Nat
  deriving DecidableEq, Repr

/-- What the host puts on the block's inputs: the bytes of one transmission on the command port, or the hardware reset input (70_reset_and_hazards.md R290). -/
inductive PortInput where
  | frame (bytes : Bytes)
  | resetInput
  deriving DecidableEq, Repr

/-- The whole machine. `tx`, `rx` and the events of `out` are the architectural state of R10; the flights are R24's; `limits` are R5's bounds; `port` and the environments are the outside world's inputs. -/
structure State where
  tx : Dir
  rx : Dir
  /-- R28: the output trace, with each command's response after its event; oldest first. -/
  out : List Output
  txFlight : Option TxFlight
  rxFlight : Option RxFlight
  /-- What the host has sent and the block has not taken, oldest first. -/
  port : List PortInput
  txEnv : Env
  rxEnv : Env
  limits : Limits
  deriving DecidableEq, Repr

/-- No step of this block stops with a fault: "No behaviour of this block is treated as `stuck`" (93_implementation_defined.md). An error of the spec is a response, an event and a status. -/
inductive Fault : Type where
  deriving DecidableEq, Repr

/-- Why a step answers no next state. -/
inductive Refusal where
  /-- Raised by Dispatch.lean for an instruction that has no meaning yet; none is left. Safe. -/
  | notModelled (mnemonic : String)
  /-- Raised by TX_ENCODE and RX_DECODE on a READY direction for an operand longer than the spec admits: 2^61 - 40 bytes or more (00_scope.md R6), or above MAX_PAYLOAD_BYTES or MAX_WIRE_BYTES (R5, D19, U12: outside the spec, `refuse`). Safe: the model stops where the spec says nothing. -/
  | operandOutsideSpec
  deriving DecidableEq, Repr

/-- R26: a direction after reset or close. -/
def Dir.reset : Dir :=
  { status := .unconfigured
    err := 0#4
    key := Vector.replicate 32 0#8
    shift := Vector.replicate 16 0#8
    ctr := 0#64 }

/-- No draws to come, none made: `CIPHER_FAULT` is false (60_exceptions.md R270's default). -/
def Env.reset : Env := { faults := [], draws := 0 }

/-- R5: every bound at its default, unbounded. -/
def Limits.reset : Limits := { maxPayload := none, maxWire := none, maxInflate := none }

/-- 70_reset_and_hazards.md R290 (a), R291: the block after power-on reset, with nothing on its port. -/
def State.reset : State :=
  { tx := Dir.reset
    rx := Dir.reset
    out := []
    txFlight := none
    rxFlight := none
    port := []
    txEnv := Env.reset
    rxEnv := Env.reset
    limits := Limits.reset }

end Sys2Proof.Machine
end

