-- ==== Sys2Proof/Machine/Flags.lean ====
section
/-! DEFINITION. The block's flags are `status` and `err` (10_state.md R21), seen through the five read-only registers of R17 and R18. -/

namespace Sys2Proof.Machine

/-- R15: the 2-bit code of a status. -/
def Status.bits : Status → BitVec 2
  | .unconfigured => 0#2
  | .ready => 1#2
  | .dead => 2#2

/-- R17: `bits[1:0] = status`, `bits[3:2] = 0`, `bits[7:4] = err`. -/
def statusByte (d : Dir) : Byte := d.err ++ (0#2 ++ d.status.bits)

/-- R18: `MON_STATUS`, a pure function of the other state; bits 7:5 are 0. -/
def monStatusByte (s : State) : Byte :=
  0#3 ++ (BitVec.ofBool (s.rx.err == 6#4) ++ (BitVec.ofBool (s.tx.err == 6#4) ++
    (BitVec.ofBool (s.rx.err == 2#4) ++ (BitVec.ofBool (s.rx.status == .ready) ++
      BitVec.ofBool (s.tx.status == .ready)))))

/-- `LE64(ctr)` (45_counter_monitor_and_control.md R227, R228). -/
def ctrBytes (c : Ctr) : Bytes := leBytes 8 c.toNat

/-- R17: the register of a number, as the bytes its read command returns; 5 to 15 do not exist. -/
def register (s : State) : Nat → Option Bytes
  | 0 => some [statusByte s.tx]
  | 1 => some [statusByte s.rx]
  | 2 => some (ctrBytes s.tx.ctr)
  | 3 => some (ctrBytes s.rx.ctr)
  | 4 => some [monStatusByte s]
  | _ => none

end Sys2Proof.Machine
end

