-- ==== Sys2Proof/Config.lean ====
section
/-! DEFINITION. What an implementation fixes and what the spec leaves open: the parameter table of 00_scope.md R5 and the three open values that are functions. (The three size bounds are plain data in State.limits; CIPHER_FAULT is the environment's list of draws in State.) -/

namespace Sys2Proof.Config

/-- R5 `TAG_LEN`. -/
def tagLen : Nat := 8

/-- R5 `KEY_LEN`. -/
def keyLen : Nat := 32

/-- R5 `IV_LEN`. -/
def ivLen : Nat := 16

/-- R6: every byte string the block handles is shorter than this. -/
def lengthBound : Nat := 2 ^ 61 - 40

/-- 41_sequence_checksum.md R126: SHA-256 is stated for strings shorter than this. -/
def hashBound : Nat := 2 ^ 61

/-- 42_compression.md R143: the longest stored block of `CompressStored`. -/
def storedMax : Nat := 65535

/-- What the implementation's compressor emits for a payload: any function at all. `Sys2Proof.Machine.compress` makes of it a compressor that obeys law L2 of 42_compression.md R141 (notes/assumptions/7.md). A free value: no body. -/
opaque anyCompress : Bytes → Bytes

/-- The shift register after a CipherError, one value per direction (`true` is TX) and draw (60_exceptions.md R270, 93_implementation_defined.md U3; notes/assumptions/9.md). A free value: no body. -/
opaque freeShift : Bool → Nat → Block

/-- The digest of a string of 2^61 bytes or more, for which 41_sequence_checksum.md R126 states no result (notes/assumptions/12.md). A free value: no body. -/
opaque freeDigest : Bytes → Vector Byte 32

end Sys2Proof.Config
end

