-- ==== Sys2Proof/Machine/Operands.lean ====
section
/-! DEFINITION. The operands a command carries and the bytes of responses and events: length checks (60_exceptions.md R271), key and IV loading (30_encoding.md R74), size bounds (00_scope.md R5, R6), the codes (R65) and the response and event formats (R64, R75). -/

namespace Sys2Proof.Machine

/-- R74: a key operand of 32 bytes, byte for byte; none for any other length (60_exceptions.md R271). -/
def loadKey (b : Bytes) : Option Key :=
  if h : b.length = 32 then some ⟨b.toArray, by simpa using h⟩ else none

/-- R74: an IV operand of 16 bytes, `S[i] = iv[i]`; none for any other length (60_exceptions.md R271). -/
def loadIv (b : Bytes) : Option Block :=
  if h : b.length = 16 then some ⟨b.toArray, by simpa using h⟩ else none

/-- 00_scope.md R5, R6: the operand is one the spec speaks of: under 2^61 - 40 bytes, and within the implementation's bound where it sets one. -/
def withinSpec (bound : Option Nat) (b : Bytes) : Bool :=
  decide (b.length < Config.lengthBound) &&
    match bound with
    | none => true
    | some m => decide (b.length ≤ m)

/-- R65: the code numbers. -/
def Code.toByte : Code → Byte
  | .ok => 0x00#8
  | .configurationError => 0x01#8
  | .checksumMismatch => 0x02#8
  | .compressionError => 0x03#8
  | .cipherError => 0x04#8
  | .shortPacket => 0x05#8
  | .counterOverflow => 0x06#8
  | .illegalCommand => 0x08#8
  | .illegalState => 0x09#8

/-- R65: the low four bits of a code, as `dir.err` holds it. -/
def Code.nibble (c : Code) : BitVec 4 := c.toByte.setWidth 4

/-- R250: the fatal codes, 2 to 6. -/
def Code.fatal : Code → Bool
  | .checksumMismatch => true
  | .compressionError => true
  | .cipherError => true
  | .shortPacket => true
  | .counterOverflow => true
  | .ok => false
  | .configurationError => false
  | .illegalCommand => false
  | .illegalState => false

/-- R61, R75: the unit number of a direction. -/
def Side.toByte : Side → Byte
  | .tx => 0x01#8
  | .rx => 0x02#8

/-- R64: `status(1) ‖ LE32(n) ‖ n bytes`. -/
def Response.encode (r : Response) : Bytes := r.status.toByte :: (leBytes 4 r.data.length ++ r.data)

/-- R75: the kind byte of an event. -/
def Event.kind : Event → Byte
  | .onEncoded _ => 0x01#8
  | .onDecoded _ => 0x02#8
  | .onError _ _ => 0x03#8

/-- R75: the data of an event. -/
def Event.data : Event → Bytes
  | .onEncoded w => w
  | .onDecoded p => p
  | .onError d c => [d.toByte, c.toByte]

/-- R75: `kind(1) ‖ LE32(n) ‖ n bytes`. -/
def Event.encode (e : Event) : Bytes := e.kind :: (leBytes 4 e.data.length ++ e.data)

end Sys2Proof.Machine
end

