-- ==== Sys2Proof/Machine/Ops.lean ====
section
/-! DEFINITION. The operations the instructions share: the records of a direction, responses and events, a non-fatal rejection (60_exceptions.md R257), fatal entry (R256) and the only way out of it (R260), the counter's increment (45_counter_monitor_and_control.md R220 to R223), the draw of CIPHER_FAULT (R270), configuring a direction. -/

namespace Sys2Proof.Machine

/-- The record of a direction. -/
def State.dir (s : State) : Side → Dir
  | .tx => s.tx
  | .rx => s.rx

/-- Replaces the record of a direction; the other is untouched (R10: the two share nothing). -/
def State.setDir (s : State) : Side → Dir → State
  | .tx, d => { s with tx := d }
  | .rx, d => { s with rx := d }

/-- The environment of a direction's cipher. -/
def State.env (s : State) : Side → Env
  | .tx => s.txEnv
  | .rx => s.rxEnv

/-- Replaces the environment of a direction's cipher. -/
def State.setEnv (s : State) : Side → Env → State
  | .tx, e => { s with txEnv := e }
  | .rx, e => { s with rxEnv := e }

/-- Nothing of the packet survives the command (10_state.md R24). -/
def State.dropFlight (s : State) : Side → State
  | .tx => { s with txFlight := none }
  | .rx => { s with rxFlight := none }

/-- `emit`: appends an event to the output trace (60_exceptions.md R252). -/
def State.emit (s : State) (e : Event) : State := { s with out := s.out ++ [.event e] }

/-- `return (status, bytes)`: the command's one response (30_encoding.md R64). -/
def State.respond (s : State) (c : Code) (data : Bytes) : State :=
  { s with out := s.out ++ [.response ⟨c, data⟩] }

/-- The event an output is, if it is one. -/
def Output.event? : Output → Option Event
  | .event e => some e
  | .response _ => none

/-- The response an output is, if it is one. -/
def Output.response? : Output → Option Response
  | .event _ => none
  | .response r => some r

/-- The direction an event belongs to: TX encodes, RX decodes. -/
def Event.side : Event → Side
  | .onEncoded _ => .tx
  | .onDecoded _ => .rx
  | .onError d _ => d

/-- 10_state.md R28: the output trace. -/
def State.trace (s : State) : List Event := s.out.filterMap Output.event?

/-- The responses given, oldest first. -/
def State.responses (s : State) : List Response := s.out.filterMap Output.response?

/-- The trace of one direction; only this order is the spec's when commands overlap (60_exceptions.md R259). -/
def State.traceOf (s : State) (d : Side) : List Event := s.trace.filter (fun e => e.side == d)

/-- 60_exceptions.md R257: a non-fatal rejection answers with the code and changes nothing. -/
def reject (c : Code) (s : State) : State := s.respond c []

/-- 60_exceptions.md R256: raising a fatal error. The status becomes DEAD, `err` the code, the event is emitted, the response carries the code and no data; key, S and counter stay as the stages before left them; the packet in flight is lost (R278). -/
def raiseFatal (d : Side) (c : Code) (s : State) : State :=
  (((s.setDir d { s.dir d with status := .dead, err := c.nibble }).dropFlight d).emit (.onError d c)).respond c []

/-- 70_reset_and_hazards.md R292: a direction put back to the state of R291. With RESET this is the only way out of DEAD (60_exceptions.md R260). -/
def closeDir (d : Side) (s : State) : State := (s.setDir d Dir.reset).dropFlight d

/-- 70_reset_and_hazards.md R290 (a): the hardware reset input. Every state field is reset and the trace is empty; what the outside world holds (the inputs still to come, the draws, the bounds) is not the block's and stays. -/
def powerOnReset (s : State) : State :=
  { State.reset with port := s.port, txEnv := s.txEnv, rxEnv := s.rxEnv, limits := s.limits }

/-- 45_counter_monitor_and_control.md R221, R222: add 1, or none at `2^64 - 1`, where the counter does not wrap (R223). -/
def incCtr (d : Side) (s : State) : Option State :=
  if (s.dir d).ctr = Ctr.max then none
  else some (s.setDir d { s.dir d with ctr := (s.dir d).ctr + 1#64 })

/-- 60_exceptions.md R270: one consultation of `CIPHER_FAULT(dir)`; false when the environment names no answer. -/
def cipherFault (d : Side) (s : State) : Bool := (s.env d).faults.headD false

/-- The consultation uses up the environment's oldest answer. -/
def consumeFault (d : Side) (s : State) : State :=
  s.setEnv d { s.env d with faults := (s.env d).faults.tail }

/-- The direction as the opaque free values index it. -/
def Side.isTx : Side → Bool
  | .tx => true
  | .rx => false

/-- 60_exceptions.md R270: CipherError. `S` is afterwards any 16 bytes (U3): a fresh free value. -/
def raiseCipherError (d : Side) (s : State) : State :=
  raiseFatal d .cipherError
    ((s.setDir d { s.dir d with shift := Config.freeShift d.isTx (s.env d).draws }).setEnv d
      { s.env d with draws := (s.env d).draws + 1 })

/-- 43_tx_encode.md R180, 44_rx_decode.md R200: `*_INIT`. The status check comes first, then both lengths. -/
def initDir (d : Side) (key iv : Bytes) (s : State) : State :=
  if (s.dir d).status ≠ .unconfigured then reject .illegalState s
  else
    match loadKey key, loadIv iv with
    | some k, some v =>
        (s.setDir d { status := .ready, err := 0#4, key := k, shift := v, ctr := 0#64 }).respond .ok []
    | _, _ => reject .configurationError s

/-- A stage identifier outside its pipeline: the host cannot issue a stage (30_encoding.md R76), and its byte is no command (R66): IllegalCommand, nothing changes (notes/assumptions/5.md). -/
def stageNotDue (s : State) : State := reject .illegalCommand s

end Sys2Proof.Machine
end

