-- ==== Sys2Proof/Machine/Control.lean ====
section
/-! DEFINITION. RESET, the hardware reset input and the answer to an illegal command (45_counter_monitor_and_control.md R232, R233; 70_reset_and_hazards.md R290, R305). -/

namespace Sys2Proof.Machine

/-- R232: `RESET`: TX_CLOSE followed by RX_CLOSE, with one response; the output trace is kept. -/
def execReset (s : State) : Host.Outcome State Fault Refusal :=
  .next ((closeDir .rx (closeDir .tx s)).respond .ok [])

/-- 70_reset_and_hazards.md R290 (a), R305: what the host gets when it drives the hardware reset input: the block reset, the trace empty, and the answer OK. -/
def answerResetInput (s : State) : State := (powerOnReset s).respond .ok []

/-- R233, R67: an illegal opcode or a malformed frame: the response IllegalCommand and nothing else. -/
def illegalCommand (s : State) : State := reject .illegalCommand s

end Sys2Proof.Machine
end

