-- ==== Sys2Proof/Machine/Aes.lean ====
section
/-! DEFINITION. The block cipher `E`: AES-256 encryption as 40_stream_cipher.md rules R100 to R106 give it (from general knowledge there: FIPS 197; notes/assumptions/13.md). A block is its 16 bytes in order; row r, column c of R100's array is byte r + 4 c. -/

namespace Sys2Proof.Machine

/-- R101: row `x` of the substitution table; the entry for column 0 is the leftmost byte. -/
def sboxRow : Nat → BitVec 128
  | 0x0 => 0x637c777bf26b6fc53001672bfed7ab76#128
  | 0x1 => 0xca82c97dfa5947f0add4a2af9ca472c0#128
  | 0x2 => 0xb7fd9326363ff7cc34a5e5f171d83115#128
  | 0x3 => 0x04c723c31896059a071280e2eb27b275#128
  | 0x4 => 0x09832c1a1b6e5aa0523bd6b329e32f84#128
  | 0x5 => 0x53d100ed20fcb15b6acbbe394a4c58cf#128
  | 0x6 => 0xd0efaafb434d338545f9027f503c9fa8#128
  | 0x7 => 0x51a3408f929d38f5bcb6da2110fff3d2#128
  | 0x8 => 0xcd0c13ec5f974417c4a77e3d645d1973#128
  | 0x9 => 0x60814fdc222a908846eeb814de5e0bdb#128
  | 0xa => 0xe0323a0a4906245cc2d3ac629195e479#128
  | 0xb => 0xe7c8376d8dd54ea96c56f4ea657aae08#128
  | 0xc => 0xba78252e1ca6b4c6e8dd741f4bbd8b8a#128
  | 0xd => 0x703eb5664803f60e613557b986c11d9e#128
  | 0xe => 0xe1f8981169d98e949b1e87e9ce5528df#128
  | _   => 0x8ca1890dbfe6426841992d0fb054bb16#128

/-- R101: `SBox`; the high nibble selects the row, the low nibble the column. -/
def sbox (a : Byte) : Byte :=
  (sboxRow (a.toNat / 16) >>> (8 * (15 - a.toNat % 16))).setWidth 8

/-- R102: multiplication by `0x02` in GF(2^8). -/
def xtime (a : Byte) : Byte :=
  if a.msb then (a <<< 1) ^^^ 0x1b#8 else a <<< 1

/-- R102: multiplication by `0x03`. -/
def times3 (a : Byte) : Byte := xtime a ^^^ a

/-- Bytewise xor of two byte strings of one length. -/
def xorBytes (a b : Bytes) : Bytes := List.zipWith (fun x y => x ^^^ y) a b

/-- R103: `RotWord`. -/
def rotWord : Bytes → Bytes
  | a0 :: rest => rest ++ [a0]
  | [] => []

/-- R103: `SubWord`; R104: `SubBytes`. -/
def subBytes (s : Bytes) : Bytes := s.map sbox

/-- R103: `Rcon(1..7)`. -/
def rcon (i : Nat) : Byte := 1#8 <<< (i - 1)

/-- R103: the word `w[i]` from `t = w[i-1]` and `w[i-8]`. -/
def keyWord (i : Nat) (t back8 : Bytes) : Bytes :=
  let t' := if i % 8 = 0 then xorBytes (subBytes (rotWord t)) [rcon (i / 8), 0#8, 0#8, 0#8]
            else if i % 8 = 4 then subBytes t else t
  xorBytes back8 t'

/-- R103: `n` further key words from index `i` on; `ws` holds the words so far, newest first. -/
def keyExtend : Nat → Nat → List Bytes → List Bytes
  | 0, _, ws => ws
  | n + 1, i, ws => keyExtend n (i + 1) (keyWord i (ws.getD 0 []) (ws.getD 7 []) :: ws)

/-- The words of a byte string, 4 bytes each. -/
def bytes4 : Bytes → List Bytes
  | b0 :: b1 :: b2 :: b3 :: rest => [b0, b1, b2, b3] :: bytes4 rest
  | _ => []

/-- Four words to one round key. -/
def roundKeys : List Bytes → List Bytes
  | w0 :: w1 :: w2 :: w3 :: rest => (w0 ++ w1 ++ w2 ++ w3) :: roundKeys rest
  | _ => []

/-- R103: `KeyExpand`, the 15 round keys of 16 bytes. -/
def keyExpand (key : Bytes) : List Bytes :=
  roundKeys (keyExtend 52 8 (bytes4 key).reverse).reverse

/-- R105: `ShiftRows` on the 16-byte form. -/
def shiftRows (s : Bytes) : Bytes :=
  [0, 5, 10, 15, 4, 9, 14, 3, 8, 13, 2, 7, 12, 1, 6, 11].map (fun i => s.getD i 0#8)

/-- R106: `MixColumns`, column by column. -/
def mixColumns : Bytes → Bytes
  | a0 :: a1 :: a2 :: a3 :: rest =>
      (xtime a0 ^^^ times3 a1 ^^^ a2 ^^^ a3) :: (a0 ^^^ xtime a1 ^^^ times3 a2 ^^^ a3) ::
      (a0 ^^^ a1 ^^^ xtime a2 ^^^ times3 a3) :: (times3 a0 ^^^ a1 ^^^ a2 ^^^ xtime a3) :: mixColumns rest
  | _ => []

/-- R104: the rounds after the first AddRoundKey; the last has no MixColumns. -/
def aesRounds : List Bytes → Bytes → Bytes
  | [], s => s
  | [rk], s => xorBytes (shiftRows (subBytes s)) rk
  | rk :: rks, s => aesRounds rks (xorBytes (mixColumns (shiftRows (subBytes s))) rk)

/-- R104: `E` on byte strings. -/
def aesBytes (key block : Bytes) : Bytes :=
  match keyExpand key with
  | rk0 :: rks => aesRounds rks (xorBytes block rk0)
  | [] => block

/-- A byte string as 16 bytes, cut or filled with zeros; on 16 bytes it is the same bytes (`Block.ofBytes_toList`). -/
def Block.ofBytes (b : Bytes) : Block := ⟨((b ++ List.replicate 16 0#8).take 16).toArray, by simp⟩

/-- R104: `E(key, block)`. -/
def aes256 (key : Key) (block : Block) : Block := Block.ofBytes (aesBytes key.toList block.toList)

end Sys2Proof.Machine
end

