-- ==== Sys2Proof/Machine/Sha256.lean ====
section
/-! DEFINITION. SHA-256 as 41_sequence_checksum.md rules R126 to R128 give it (from general knowledge there: FIPS 180-4; notes/assumptions/15.md). -/

namespace Sys2Proof.Machine

/-- `BE32`: most significant byte first (00_scope.md R7). -/
def be32 (w : Word32) : Bytes :=
  [(w >>> 24).setWidth 8, (w >>> 16).setWidth 8, (w >>> 8).setWidth 8, w.setWidth 8]

/-- `BE64` of a natural number (00_scope.md R7); R127 appends the bit length so. -/
def be64 (n : Nat) : Bytes :=
  [BitVec.ofNat 8 (n >>> 56), BitVec.ofNat 8 (n >>> 48), BitVec.ofNat 8 (n >>> 40), BitVec.ofNat 8 (n >>> 32),
   BitVec.ofNat 8 (n >>> 24), BitVec.ofNat 8 (n >>> 16), BitVec.ofNat 8 (n >>> 8), BitVec.ofNat 8 n]

/-- R127: the padding `80 ‖ 00^k ‖ BE64(8 L)` with `k = (55 - L) mod 64`. -/
def shaPad (m : Bytes) : Bytes :=
  m ++ [0x80#8] ++ List.replicate ((55 + (64 - m.length % 64)) % 64) 0#8 ++ be64 (8 * m.length)

/-- R7: `ROTR_32`. -/
def rotr32 (x : Word32) (n : Nat) : Word32 := (x >>> n) ||| (x <<< (32 - n))

/-- R128. -/
def shaCh (x y z : Word32) : Word32 := (x &&& y) ^^^ (~~~x &&& z)
/-- R128. -/
def shaMaj (x y z : Word32) : Word32 := (x &&& y) ^^^ (x &&& z) ^^^ (y &&& z)
/-- R128. -/
def bsig0 (x : Word32) : Word32 := rotr32 x 2 ^^^ rotr32 x 13 ^^^ rotr32 x 22
/-- R128. -/
def bsig1 (x : Word32) : Word32 := rotr32 x 6 ^^^ rotr32 x 11 ^^^ rotr32 x 25
/-- R128. -/
def ssig0 (x : Word32) : Word32 := rotr32 x 7 ^^^ rotr32 x 18 ^^^ (x >>> 3)
/-- R128. -/
def ssig1 (x : Word32) : Word32 := rotr32 x 17 ^^^ rotr32 x 19 ^^^ (x >>> 10)

/-- R128: the 64 constants, row by row. -/
def shaK : List Word32 :=
  [0x428a2f98#32, 0x71374491#32, 0xb5c0fbcf#32, 0xe9b5dba5#32, 0x3956c25b#32, 0x59f111f1#32, 0x923f82a4#32, 0xab1c5ed5#32] ++
  [0xd807aa98#32, 0x12835b01#32, 0x243185be#32, 0x550c7dc3#32, 0x72be5d74#32, 0x80deb1fe#32, 0x9bdc06a7#32, 0xc19bf174#32] ++
  [0xe49b69c1#32, 0xefbe4786#32, 0x0fc19dc6#32, 0x240ca1cc#32, 0x2de92c6f#32, 0x4a7484aa#32, 0x5cb0a9dc#32, 0x76f988da#32] ++
  [0x983e5152#32, 0xa831c66d#32, 0xb00327c8#32, 0xbf597fc7#32, 0xc6e00bf3#32, 0xd5a79147#32, 0x06ca6351#32, 0x14292967#32] ++
  [0x27b70a85#32, 0x2e1b2138#32, 0x4d2c6dfc#32, 0x53380d13#32, 0x650a7354#32, 0x766a0abb#32, 0x81c2c92e#32, 0x92722c85#32] ++
  [0xa2bfe8a1#32, 0xa81a664b#32, 0xc24b8b70#32, 0xc76c51a3#32, 0xd192e819#32, 0xd6990624#32, 0xf40e3585#32, 0x106aa070#32] ++
  [0x19a4c116#32, 0x1e376c08#32, 0x2748774c#32, 0x34b0bcb5#32, 0x391c0cb3#32, 0x4ed8aa4a#32, 0x5b9cca4f#32, 0x682e6ff3#32] ++
  [0x748f82ee#32, 0x78a5636f#32, 0x84c87814#32, 0x8cc70208#32, 0x90befffa#32, 0xa4506ceb#32, 0xbef9a3f7#32, 0xc67178f2#32]

/-- The eight working words of R126. -/
structure ShaWords where
  a : Word32
  b : Word32
  c : Word32
  d : Word32
  e : Word32
  f : Word32
  g : Word32
  h : Word32
  deriving DecidableEq, Repr

/-- R126: the initial hash value. -/
def shaInit : ShaWords :=
  ⟨0x6a09e667#32, 0xbb67ae85#32, 0x3c6ef372#32, 0xa54ff53a#32, 0x510e527f#32, 0x9b05688c#32, 0x1f83d9ab#32, 0x5be0cd19#32⟩

/-- The big-endian words of a byte string whose length is a multiple of 4. -/
def beWords : Bytes → List Word32
  | b0 :: b1 :: b2 :: b3 :: rest =>
      (b0.setWidth 32 <<< 24 ||| b1.setWidth 32 <<< 16 ||| b2.setWidth 32 <<< 8 ||| b3.setWidth 32) :: beWords rest
  | _ => []

/-- R126, `t` from 16 on: `n` further schedule words; `ws` holds the words so far, newest first. -/
def shaExtend : Nat → List Word32 → List Word32
  | 0, ws => ws
  | n + 1, ws =>
      shaExtend n ((ssig1 (ws.getD 1 0) + ws.getD 6 0 + ssig0 (ws.getD 14 0) + ws.getD 15 0) :: ws)

/-- R126: the schedule `W[0..63]` of one 64-byte block. -/
def shaSchedule (block : Bytes) : List Word32 := (shaExtend 48 (beWords block).reverse).reverse

/-- R126: one round with constant `k` and schedule word `w`. -/
def shaRound (s : ShaWords) (k w : Word32) : ShaWords :=
  let t1 := s.h + bsig1 s.e + shaCh s.e s.f s.g + k + w
  let t2 := bsig0 s.a + shaMaj s.a s.b s.c
  ⟨t1 + t2, s.a, s.b, s.c, s.d + t1, s.e, s.f, s.g⟩

/-- R126: the 64 rounds. -/
def shaRounds : List Word32 → List Word32 → ShaWords → ShaWords
  | k :: ks, w :: ws, s => shaRounds ks ws (shaRound s k w)
  | _, _, s => s

/-- R126: one 64-byte block. -/
def shaBlock (h : ShaWords) (block : Bytes) : ShaWords :=
  let r := shaRounds shaK (shaSchedule block) h
  ⟨h.a + r.a, h.b + r.b, h.c + r.c, h.d + r.d, h.e + r.e, h.f + r.f, h.g + r.g, h.h + r.h⟩

/-- R126: `n` blocks of the padded message, in order. -/
def shaBlocks : Nat → ShaWords → Bytes → ShaWords
  | 0, h, _ => h
  | n + 1, h, m => shaBlocks n (shaBlock h (m.take 64)) (m.drop 64)

/-- The eight words as 32 bytes (R126, last line). -/
def ShaWords.bytes (h : ShaWords) : Bytes :=
  be32 h.a ++ be32 h.b ++ be32 h.c ++ be32 h.d ++ be32 h.e ++ be32 h.f ++ be32 h.g ++ be32 h.h

/-- R126: the digest of the padded string. -/
def shaDigest (m : Bytes) : Bytes :=
  let p := shaPad m
  (shaBlocks (p.length / 64) shaInit p).bytes

/-- R126: `SHA256(m)` for fewer than 2^61 bytes. R126 states no result for a longer string: there it is a free value of 32 bytes (notes/assumptions/12.md). -/
def sha256 (m : Bytes) : Bytes :=
  if m.length < Config.hashBound then shaDigest m else (Config.freeDigest m).toList

end Sys2Proof.Machine
end

