-- ==== Sys2Proof/Machine/Cipher.lean ====
section
/-! DEFINITION. The stream cipher (8-bit feedback, 40_stream_cipher.md R90 to R93) over any block cipher, the sequence tag (41_sequence_checksum.md R120 to R123) over any hash, and the block's own choice of the two. -/

namespace Sys2Proof.Machine

/-- R91: `S <- S[1..16] ‖ [c]`. -/
def shiftIn (s : Block) (c : Byte) : Block := ⟨(s.toList.drop 1 ++ [c]).toArray, by simp⟩

/-- R91: the keystream byte `o = E(key, S)[0]`. -/
def keystream (E : Key → Block → Block) (key : Key) (s : Block) : Byte := (E key s)[0]

/-- R92: `CFB8Enc(key, S, p)`, the ciphertext and the final shift register. -/
def cfb8Enc (E : Key → Block → Block) (key : Key) : Block → Bytes → Bytes × Block
  | s, [] => ([], s)
  | s, x :: xs =>
    let c := x ^^^ keystream E key s
    let r := cfb8Enc E key (shiftIn s c) xs
    (c :: r.1, r.2)

/-- R93: `CFB8Dec(key, S, c)`; the byte shifted in is the ciphertext byte here too (R91). -/
def cfb8Dec (E : Key → Block → Block) (key : Key) : Block → Bytes → Bytes × Block
  | s, [] => ([], s)
  | s, c :: cs =>
    let r := cfb8Dec E key (shiftIn s c) cs
    ((c ^^^ keystream E key s) :: r.1, r.2)

/-- R121, R122: the hash input `LE64(ctr) ‖ c ‖ key`. -/
def tagPreimage (c : Bytes) (ctr : Ctr) (key : Key) : Bytes := leBytes 8 ctr.toNat ++ c ++ key.toList

/-- R121, R123: `Tag(c, ctr, key)`, the first 8 bytes of the hash. -/
def tagOf (hash : Bytes → Bytes) (c : Bytes) (ctr : Ctr) (key : Key) : Bytes :=
  (hash (tagPreimage c ctr key)).take Config.tagLen

/-- R5 `BLOCK_CIPHER`: AES-256 (notes/assumptions/13.md). -/
def blockCipher : Key → Block → Block := aes256

/-- R5 `HASH`: SHA-256 (notes/assumptions/15.md). -/
def hashFunction : Bytes → Bytes := sha256

/-- The block's own `CFB8Enc`. -/
def encryptBytes (key : Key) (s : Block) (p : Bytes) : Bytes × Block := cfb8Enc blockCipher key s p

/-- The block's own `CFB8Dec`. -/
def decryptBytes (key : Key) (s : Block) (c : Bytes) : Bytes × Block := cfb8Dec blockCipher key s c

/-- The block's own `Tag`. -/
def tag (c : Bytes) (ctr : Ctr) (key : Key) : Bytes := tagOf hashFunction c ctr key

end Sys2Proof.Machine
end

