-- ==== Sys2Proof/Machine/Inflate.lean ====
section
/-! DEFINITION. The decompressor `Inflate` (42_compression.md R144 to R160: raw DEFLATE, strict; from general knowledge there: RFC 1951; notes/assumptions/16.md), the reference compressor `CompressStored` (R143), and the block's compressor (R141). An error is `none`. A reader is the whole input `z` and a bit position. -/

namespace Sys2Proof.Machine

/-- R146: `Bit()`; none when the input is exhausted. -/
def bit (z : Bytes) (pos : Nat) : Option (Nat × Nat) :=
  match z[pos / 8]? with
  | some b => some (b.toNat / 2 ^ (pos % 8) % 2, pos + 1)
  | none => none

/-- R146: `Bits(n)`, the first bit read least significant. -/
def bits (z : Bytes) : Nat → Nat → Option (Nat × Nat)
  | 0, pos => some (0, pos)
  | n + 1, pos =>
    match bit z pos with
    | none => none
    | some (b, p) =>
      match bits z n p with
      | none => none
      | some (v, p') => some (b + 2 * v, p')

/-- One symbol's code: `len` bits, value `code` (R152). -/
structure HuffCode where
  sym : Nat
  len : Nat
  code : Nat
  deriving DecidableEq, Repr

/-- R152: the first code of each length, from `count`: `code = (code + count[l-1]) << 1` with `count[0] = 0`. -/
def firstCode (lens : List Nat) : Nat → Nat
  | 0 => 0
  | l + 1 => (firstCode lens l + (if l = 0 then 0 else lens.count l)) * 2

/-- R152: the codes in symbol order; `next[l]` is the next code of length `l`. -/
def assignCodes (next : List Nat) (sym : Nat) : List Nat → List HuffCode
  | [] => []
  | l :: ls =>
    if l = 0 then assignCodes next (sym + 1) ls
    else ⟨sym, l, next.getD l 0⟩ :: assignCodes (next.set l (next.getD l 0 + 1)) (sym + 1) ls

/-- R152: `Canonical(len)`. -/
def canonical (lens : List Nat) : List HuffCode :=
  assignCodes ((List.range 16).map (firstCode lens)) 0 lens

/-- R153: the bits from the `l`-th on; `c` is the code read so far, `n = 16 - l`. -/
def decodeSymbolFrom (table : List HuffCode) (z : Bytes) : Nat → Nat → Nat → Nat → Option (Nat × Nat)
  | 0, _, _, _ => none
  | n + 1, l, c, pos =>
    match bit z pos with
    | none => none
    | some (b, p) =>
      match table.find? (fun e => e.len == l && e.code == 2 * c + b) with
      | some e => some (e.sym, p)
      | none => decodeSymbolFrom table z n (l + 1) (2 * c + b) p

/-- R153: `DecodeSymbol`, first bit most significant, at most 15 bits. -/
def decodeSymbol (table : List HuffCode) (z : Bytes) (pos : Nat) : Option (Nat × Nat) :=
  decodeSymbolFrom table z 15 1 0 pos

/-- R154: `K(len)`. -/
def kraft (lens : List Nat) : Nat := (lens.map (fun l => if l = 0 then 0 else 2 ^ (15 - l))).sum

/-- R154: `Complete`. -/
def complete (lens : List Nat) : Bool := kraft lens == 2 ^ 15

/-- R154: `AllZero`. -/
def allZero (lens : List Nat) : Bool := lens.all (· == 0)

/-- R154: `OneCodeOfLengthOne`. -/
def oneCodeOfLengthOne (lens : List Nat) : Bool := lens.filter (· != 0) == [1]

/-- R149: the code lengths of `FixedLit`. -/
def fixedLitLens : List Nat :=
  List.replicate 144 8 ++ List.replicate 112 9 ++ List.replicate 24 7 ++ List.replicate 8 8

/-- R149: `FixedLit`. -/
def fixedLit : List HuffCode := canonical fixedLitLens

/-- R149: `FixedDist`. -/
def fixedDist : List HuffCode := canonical (List.replicate 32 5)

/-- R150: the order of the code-length code lengths. -/
def clOrder : List Nat := [16, 17, 18, 0, 8, 7, 9, 6, 10, 5, 11, 4, 12, 3, 13, 2, 14, 1, 15]

/-- R150: reads one 3-bit length for each symbol of `order`, into `cl`. -/
def readClLens (z : Bytes) : List Nat → List Nat → Nat → Option (List Nat × Nat)
  | [], cl, pos => some (cl, pos)
  | s :: order, cl, pos =>
    match bits z 3 pos with
    | none => none
    | some (v, p) => readClLens z order (cl.set s v) p

/-- R151: what a length symbol `s` adds to the lengths read so far (kept newest first), and where it ends. -/
def lengthRun (z : Bytes) (s : Nat) (lens : List Nat) (pos : Nat) : Option (List Nat × Nat) :=
  if s ≤ 15 then some ([s], pos)
  else if s = 16 then
    match lens with
    | [] => none
    | v :: _ =>
      match bits z 2 pos with
      | none => none
      | some (n, p) => some (List.replicate (3 + n) v, p)
  else if s = 17 then
    match bits z 3 pos with
    | none => none
    | some (n, p) => some (List.replicate (3 + n) 0, p)
  else
    match bits z 7 pos with
    | none => none
    | some (n, p) => some (List.replicate (11 + n) 0, p)

/-- R151: `ReadLengths`; `lens` is newest first; each turn adds a length, so `fuel = total` turns are enough. -/
def readLengths (z : Bytes) (clcode : List HuffCode) (total : Nat) : Nat → List Nat → Nat → Option (List Nat × Nat)
  | fuel, lens, pos =>
    if total ≤ lens.length then some (lens.reverse, pos)
    else
      match fuel with
      | 0 => none
      | fuel + 1 =>
        match decodeSymbol clcode z pos with
        | none => none
        | some (s, p) =>
          match lengthRun z s lens p with
          | none => none
          | some (run, p') =>
            if total < lens.length + run.length then none
            else readLengths z clcode total fuel (run ++ lens) p'

/-- R150: `DynamicHeader`, the two codes and the bit position after it. -/
def dynamicHeader (z : Bytes) (pos : Nat) : Option (List HuffCode × List HuffCode × Nat) :=
  match bits z 5 pos with
  | none => none
  | some (f1, p1) =>
    match bits z 5 p1 with
    | none => none
    | some (f2, p2) =>
      match bits z 4 p2 with
      | none => none
      | some (f3, p3) =>
        let hlit := f1 + 257
        let hdist := f2 + 1
        let hclen := f3 + 4
        if 286 < hlit ∨ 30 < hdist then none
        else
          match readClLens z (clOrder.take hclen) (List.replicate 19 0) p3 with
          | none => none
          | some (cl, p4) =>
            if complete cl then
              match readLengths z (canonical cl) (hlit + hdist) (hlit + hdist) [] p4 with
              | none => none
              | some (lens, p5) =>
                let ll := lens.take hlit
                let dl := lens.drop hlit
                if ll.getD 256 0 = 0 then none
                else if complete ll && (complete dl || allZero dl || oneCodeOfLengthOne dl) then
                  some (canonical ll, canonical dl, p5)
                else none
            else none

/-- R156: `LBASE`, indexed by `s - 257`. -/
def lengthBase : List Nat :=
  [3, 4, 5, 6, 7, 8, 9, 10, 11, 13, 15, 17, 19, 23, 27] ++ [31, 35, 43, 51, 59, 67, 83, 99, 115, 131, 163, 195, 227, 258]

/-- R156: `LEXT`. -/
def lengthExtra : List Nat :=
  [0, 0, 0, 0, 0, 0, 0, 0, 1, 1, 1, 1, 2, 2, 2] ++ [2, 3, 3, 3, 3, 4, 4, 4, 4, 5, 5, 5, 5, 0]

/-- R157: `DBASE`. -/
def distBase : List Nat :=
  [1, 2, 3, 4, 5, 7, 9, 13, 17, 25, 33, 49, 65, 97, 129] ++
  [193, 257, 385, 513, 769, 1025, 1537, 2049, 3073, 4097, 6145, 8193, 12289, 16385, 24577]

/-- R157: `DEXT`. -/
def distExtra : List Nat :=
  [0, 0, 0, 0, 1, 1, 2, 2, 3, 3, 4, 4, 5, 5, 6] ++ [6, 7, 7, 8, 8, 9, 9, 10, 10, 11, 11, 12, 12, 13, 13]

/-- R155: `n` times the byte `dist` back; the output is kept newest first, so a copy may read its own bytes. -/
def copyBack (dist : Nat) : Nat → Bytes → Bytes
  | 0, out => out
  | n + 1, out => copyBack dist n (out.getD (dist - 1) 0#8 :: out)

/-- R155: the distance part of a pair: an error where the block has no distance codes, or for symbols 30 and 31. -/
def readDistance (z : Bytes) (dist : List HuffCode) (pos : Nat) : Option (Nat × Nat) :=
  if dist.isEmpty then none
  else
    match decodeSymbol dist z pos with
    | none => none
    | some (d, p) =>
      if distBase.length ≤ d then none
      else
        match bits z (distExtra.getD d 0) p with
        | none => none
        | some (extra, p') => some (distBase.getD d 0 + extra, p')

/-- R155: the length and distance of a pair whose length symbol is `257 + k`, and where it ends. -/
def readPair (z : Bytes) (dist : List HuffCode) (k pos : Nat) : Option (Nat × Nat × Nat) :=
  match bits z (lengthExtra.getD k 0) pos with
  | none => none
  | some (extra, p) =>
    match readDistance z dist p with
    | none => none
    | some (d, p') => some (lengthBase.getD k 0 + extra, d, p')

/-- R155: what one turn of `HuffmanBlock` finds, and where it ends. -/
inductive HuffTurn where
  | literal (b : Byte) (pos : Nat)
  | endOfBlock (pos : Nat)
  | pair (len dist pos : Nat)
  deriving DecidableEq, Repr

/-- R155: one turn of `HuffmanBlock`: a literal, the end of the block, or a length and distance. -/
def huffmanTurn (z : Bytes) (lit dist : List HuffCode) (pos : Nat) : Option HuffTurn :=
  match decodeSymbol lit z pos with
  | none => none
  | some (s, p) =>
    if s < 256 then some (.literal (BitVec.ofNat 8 s) p)
    else if s = 256 then some (.endOfBlock p)
    else if 285 < s then none
    else
      match readPair z dist (s - 257) p with
      | none => none
      | some (len, d, p') => some (.pair len d p')

/-- R155: `HuffmanBlock`; `out` is newest first; each turn reads at least one bit. -/
def huffmanBlock (z : Bytes) (lit dist : List HuffCode) : Nat → Nat → Bytes → Option (Nat × Bytes)
  | 0, _, _ => none
  | fuel + 1, pos, out =>
    match huffmanTurn z lit dist pos with
    | none => none
    | some (.literal b p) => huffmanBlock z lit dist fuel p (b :: out)
    | some (.endOfBlock p) => some (p, out)
    | some (.pair len d p) =>
      if out.length < d then none else huffmanBlock z lit dist fuel p (copyBack d len out)

/-- R148: `StoredBlock`; `out` is newest first. -/
def storedBlock (z : Bytes) (pos : Nat) (out : Bytes) : Option (Nat × Bytes) :=
  match bits z 16 (8 * ((pos + 7) / 8)) with
  | none => none
  | some (len, p1) =>
    match bits z 16 p1 with
    | none => none
    | some (nlen, p2) =>
      if len ^^^ nlen ≠ 0xffff then none
      else
        let q := p2 / 8
        if z.length < q + len then none
        else some (p2 + 8 * len, ((z.drop q).take len).reverse ++ out)

/-- R145, R147: the body of a block of type `btype`. -/
def blockBody (z : Bytes) (btype pos : Nat) (out : Bytes) : Option (Nat × Bytes) :=
  match btype with
  | 0 => storedBlock z pos out
  | 1 => huffmanBlock z fixedLit fixedDist (8 * z.length + 1) pos out
  | 2 =>
    match dynamicHeader z pos with
    | none => none
    | some (lit, dist, p) => huffmanBlock z lit dist (8 * z.length + 1) p out
  | _ => none

/-- R145: blocks until the final one; each reads at least three bits. The answer is the bit position after the final block and the output, newest first. -/
def inflateBlocks (z : Bytes) : Nat → Nat → Bytes → Option (Nat × Bytes)
  | 0, _, _ => none
  | fuel + 1, pos, out =>
    match bits z 1 pos with
    | none => none
    | some (bfinal, p1) =>
      match bits z 2 p1 with
      | none => none
      | some (btype, p2) =>
        match blockBody z btype p2 out with
        | none => none
        | some (p3, out') => if bfinal = 1 then some (p3, out') else inflateBlocks z fuel p3 out'

/-- R145, R158: `Inflate(z)`, the whole stream and nothing after its last byte. -/
def inflate (z : Bytes) : Option Bytes :=
  match inflateBlocks z (8 * z.length + 1) 0 [] with
  | none => none
  | some (pos, out) => if (pos + 7) / 8 = z.length then some out.reverse else none

/-- R160: `Inflate` of an implementation with the bound `MAX_INFLATE_BYTES`. That a payload beyond 00_scope.md R6 is delivered where no smaller bound is set is the model's choice: notes/assumptions/24.md. -/
def inflateWithin (bound : Option Nat) (z : Bytes) : Option Bytes :=
  match inflate z with
  | none => none
  | some p =>
    match bound with
    | none => some p
    | some m => if p.length ≤ m then some p else none

/-- R143: one stored block. -/
def storedChunk (last : Byte) (d : Bytes) : Bytes :=
  [last] ++ leBytes 2 d.length ++ leBytes 2 (d.length ^^^ 0xffff) ++ d

/-- R143: stored blocks of at most 65535 bytes; the empty payload is one empty block. -/
def storedFrom : Nat → Bytes → Bytes
  | 0, p => storedChunk 1#8 (p.take Config.storedMax)
  | n + 1, p =>
    if p.length ≤ Config.storedMax then storedChunk 1#8 p
    else storedChunk 0#8 (p.take Config.storedMax) ++ storedFrom n (p.drop Config.storedMax)

/-- R143: `CompressStored`. -/
def compressStored (p : Bytes) : Bytes := storedFrom (p.length / Config.storedMax) p

/-- A stream the implementation's compressor may emit for a payload: it obeys law L2 of R141, and the packet it makes is one the block handles (00_scope.md R6). -/
def conforms (payload z : Bytes) : Bool :=
  (inflate z == some payload) && decide (z.length + Config.tagLen < Config.lengthBound)

/-- R141: the block's `Compress`. What the implementation's compressor emits where that conforms, the reference stream where it does not: every compressor that conforms everywhere is a possible `compress`, and every possible `compress` obeys law L2 (notes/assumptions/7.md). That a payload within R6 whose reference stream makes a packet beyond R6 still runs, its tag a free value beyond the bound of R126, is the model's choice: notes/assumptions/23.md. -/
def compress (payload : Bytes) : Bytes :=
  if conforms payload (Config.anyCompress payload) then Config.anyCompress payload else compressStored payload

end Sys2Proof.Machine
end

