-- ==== Sys2Proof/Machine/Monitor.lean ====
section
/-! DEFINITION. The dual counter monitor and the status read-out: the stages TX.CTR_INC and RX.CTR_INC and the five RD_ commands (45_counter_monitor_and_control.md). -/

namespace Sys2Proof.Machine

/-- R221: stage `TX.CTR_INC` (0x14). At `2^64 - 1` CounterOverflow, else the send counter goes up by one; the cipher stage is due next. -/
def execTxCtrInc (s : State) : Host.Outcome State Fault Refusal :=
  match s.txFlight with
  | some (.ctrInc pkt) =>
    match incCtr .tx s with
    | none => .next (raiseFatal .tx .counterOverflow s)
    | some s' => .next { s' with txFlight := some (.cipherEncrypt pkt) }
  | _ => .next (stageNotDue s)

/-- R222: stage `RX.CTR_INC` (0x24). Unconditional on the tag (44_rx_decode.md R209); for a packet too short to split the command then ends in ShortPacket (60_exceptions.md R274). -/
def execRxCtrInc (s : State) : Host.Outcome State Fault Refusal :=
  match s.rxFlight with
  | some (.ctrInc c r x) =>
    match incCtr .rx s with
    | none => .next (raiseFatal .rx .counterOverflow s)
    | some s' => .next { s' with rxFlight := some (.tagCompare c r x) }
  | some .ctrIncShort =>
    match incCtr .rx s with
    | none => .next (raiseFatal .rx .counterOverflow s)
    | some s' => .next (raiseFatal .rx .shortPacket s')
  | _ => .next (stageNotDue s)

/-- R227: `RD_SEND_CTR`, eight bytes, least significant first. -/
def execRdSendCtr (s : State) : Host.Outcome State Fault Refusal := .next (s.respond .ok (ctrBytes s.tx.ctr))

/-- R228: `RD_RECV_CTR`. -/
def execRdRecvCtr (s : State) : Host.Outcome State Fault Refusal := .next (s.respond .ok (ctrBytes s.rx.ctr))

/-- R229: `RD_TX_STATUS`. -/
def execRdTxStatus (s : State) : Host.Outcome State Fault Refusal := .next (s.respond .ok [statusByte s.tx])

/-- R230: `RD_RX_STATUS`. -/
def execRdRxStatus (s : State) : Host.Outcome State Fault Refusal := .next (s.respond .ok [statusByte s.rx])

/-- R231: `RD_MON_STATUS`. -/
def execRdMonStatus (s : State) : Host.Outcome State Fault Refusal := .next (s.respond .ok [monStatusByte s])

end Sys2Proof.Machine
end

