-- ==== Sys2Proof/Machine/Rx.lean ====
section
/-! DEFINITION. The RX datapath: its stages, RX_INIT, RX_DECODE, RX_CLOSE (44_rx_decode.md). -/

namespace Sys2Proof.Machine

/-- R202: stage `RX.CIPHER_DECRYPT` (0x21): the whole operand, whatever its length, before anything is checked. -/
def execRxCipherDecrypt (s : State) : Host.Outcome State Fault Refusal :=
  match s.rxFlight with
  | some (.cipherDecrypt wire) =>
    let s1 := consumeFault .rx s
    if cipherFault .rx s then .next (raiseCipherError .rx s1)
    else
      let r := decryptBytes s.rx.key s.rx.shift wire
      .next { s1 with rx := { s.rx with shift := r.2 }, rxFlight := some (.split r.1) }
  | _ => .next (stageNotDue s)

/-- R203: stage `RX.SPLIT` (0x22): the last 8 bytes are the received tag. A shorter packet cannot be split; the counter stage is then due directly (45_counter_monitor_and_control.md R222). -/
def execRxSplit (s : State) : Host.Outcome State Fault Refusal :=
  match s.rxFlight with
  | some (.split pkt) =>
    if pkt.length < Config.tagLen then .next { s with rxFlight := some .ctrIncShort }
    else
      .next { s with rxFlight := some (.tagCompute (pkt.take (pkt.length - Config.tagLen)) (pkt.drop (pkt.length - Config.tagLen))) }
  | _ => .next (stageNotDue s)

/-- R204: stage `RX.TAG_COMPUTE` (0x23): the expected tag, with the counter before its increment. -/
def execRxTagCompute (s : State) : Host.Outcome State Fault Refusal :=
  match s.rxFlight with
  | some (.tagCompute c r) => .next { s with rxFlight := some (.ctrInc c r (tag c s.rx.ctr s.rx.key)) }
  | _ => .next (stageNotDue s)

/-- R205: stage `RX.TAG_COMPARE` (0x25): all 8 bytes must agree. -/
def execRxTagCompare (s : State) : Host.Outcome State Fault Refusal :=
  match s.rxFlight with
  | some (.tagCompare c r x) =>
    if r ≠ x then .next (raiseFatal .rx .checksumMismatch s)
    else .next { s with rxFlight := some (.decompress c) }
  | _ => .next (stageNotDue s)

/-- R206: stage `RX.DECOMPRESS` (0x26). A payload beyond 00_scope.md R6 goes on like any other, the model's choice: notes/assumptions/24.md. -/
def execRxDecompress (s : State) : Host.Outcome State Fault Refusal :=
  match s.rxFlight with
  | some (.decompress c) =>
    match inflateWithin s.limits.maxInflate c with
    | none => .next (raiseFatal .rx .compressionError s)
    | some payload => .next { s with rxFlight := some (.emit payload) }
  | _ => .next (stageNotDue s)

/-- R207: stage `RX.EMIT` (0x27): the payload as the event and as the response. -/
def execRxEmit (s : State) : Host.Outcome State Fault Refusal :=
  match s.rxFlight with
  | some (.emit payload) => .next (((s.dropFlight .rx).emit (.onDecoded payload)).respond .ok payload)
  | _ => .next (stageNotDue s)

/-- The stage a latch is waiting for (30_encoding.md R76, 10_state.md R20). -/
def rxStage : RxFlight → State → Host.Outcome State Fault Refusal
  | .cipherDecrypt _ => execRxCipherDecrypt
  | .split _ => execRxSplit
  | .tagCompute _ _ => execRxTagCompute
  | .ctrInc _ _ _ => execRxCtrInc
  | .ctrIncShort => execRxCtrInc
  | .tagCompare _ _ _ => execRxTagCompare
  | .decompress _ => execRxDecompress
  | .emit _ => execRxEmit

/-- R201: the stages that are due, in order, until the command has ended; a fatal error ends it early (60_exceptions.md R256). -/
def runRxStages : Nat → State → Host.Outcome State Fault Refusal
  | 0, s => .next s
  | n + 1, s =>
    match s.rxFlight with
    | none => .next s
    | some f =>
      match rxStage f s with
      | .next s' => runRxStages n s'
      | .fault r => .fault r
      | .refused r => .refused r

/-- R200: `RX_INIT key, iv`. -/
def execRxInit (key iv : Bytes) (s : State) : Host.Outcome State Fault Refusal := .next (initDir .rx key iv s)

/-- R201: `RX_DECODE wire`: the state check, then the seven stages from the first to the last, whole (20_memory.md R48). -/
def execRxDecode (wire : Bytes) (s : State) : Host.Outcome State Fault Refusal :=
  if s.rx.status ≠ .ready then .next (reject .illegalState s)
  else if !withinSpec s.limits.maxWire wire then .refused .operandOutsideSpec
  else runRxStages 7 { s with rxFlight := some (.cipherDecrypt wire) }

/-- R208: `RX_CLOSE`. -/
def execRxClose (s : State) : Host.Outcome State Fault Refusal := .next ((closeDir .rx s).respond .ok [])

end Sys2Proof.Machine
end

