-- ==== Sys2Proof/Machine/Tx.lean ====
section
/-! DEFINITION. The TX datapath: its stages, TX_INIT, TX_ENCODE, TX_CLOSE (43_tx_encode.md). A stage works on what the datapath's latch holds and leaves there what the next stage needs (R190). -/

namespace Sys2Proof.Machine

/-- R182: stage `TX.COMPRESS` (0x11), `C = Compress(P)`. -/
def execTxCompress (s : State) : Host.Outcome State Fault Refusal :=
  match s.txFlight with
  | some (.compress payload) => .next { s with txFlight := some (.tagCompute (compress payload)) }
  | _ => .next (stageNotDue s)

/-- R183: stage `TX.TAG_COMPUTE` (0x12), `T = Tag(C, TX.ctr, TX.key)` with the counter before its increment. -/
def execTxTagCompute (s : State) : Host.Outcome State Fault Refusal :=
  match s.txFlight with
  | some (.tagCompute c) => .next { s with txFlight := some (.tagAppend c (tag c s.tx.ctr s.tx.key)) }
  | _ => .next (stageNotDue s)

/-- R184: stage `TX.TAG_APPEND` (0x13), `pkt = C ‖ T`. -/
def execTxTagAppend (s : State) : Host.Outcome State Fault Refusal :=
  match s.txFlight with
  | some (.tagAppend c t) => .next { s with txFlight := some (.ctrInc (c ++ t)) }
  | _ => .next (stageNotDue s)

/-- R187: stage `TX.CIPHER_ENCRYPT` (0x15). `CIPHER_FAULT(TX)` is tested before the stage writes anything. -/
def execTxCipherEncrypt (s : State) : Host.Outcome State Fault Refusal :=
  match s.txFlight with
  | some (.cipherEncrypt pkt) =>
    let s1 := consumeFault .tx s
    if cipherFault .tx s then .next (raiseCipherError .tx s1)
    else
      let r := encryptBytes s.tx.key s.tx.shift pkt
      .next { s1 with tx := { s.tx with shift := r.2 }, txFlight := some (.emit r.1) }
  | _ => .next (stageNotDue s)

/-- R188: stage `TX.EMIT` (0x16): the wire bytes as the event and as the response. -/
def execTxEmit (s : State) : Host.Outcome State Fault Refusal :=
  match s.txFlight with
  | some (.emit wire) => .next (((s.dropFlight .tx).emit (.onEncoded wire)).respond .ok wire)
  | _ => .next (stageNotDue s)

/-- The stage a latch is waiting for (30_encoding.md R76, 10_state.md R20). -/
def txStage : TxFlight → State → Host.Outcome State Fault Refusal
  | .compress _ => execTxCompress
  | .tagCompute _ => execTxTagCompute
  | .tagAppend _ _ => execTxTagAppend
  | .ctrInc _ => execTxCtrInc
  | .cipherEncrypt _ => execTxCipherEncrypt
  | .emit _ => execTxEmit

/-- R190: the stages that are due, in order, until the command has ended; a fatal error ends it early (60_exceptions.md R256). -/
def runTxStages : Nat → State → Host.Outcome State Fault Refusal
  | 0, s => .next s
  | n + 1, s =>
    match s.txFlight with
    | none => .next s
    | some f =>
      match txStage f s with
      | .next s' => runTxStages n s'
      | .fault r => .fault r
      | .refused r => .refused r

/-- R180: `TX_INIT key, iv`. -/
def execTxInit (key iv : Bytes) (s : State) : Host.Outcome State Fault Refusal := .next (initDir .tx key iv s)

/-- R181: `TX_ENCODE payload`: the state check, then the six stages from the first to the last, whole (20_memory.md R48). -/
def execTxEncode (payload : Bytes) (s : State) : Host.Outcome State Fault Refusal :=
  if s.tx.status ≠ .ready then .next (reject .illegalState s)
  else if !withinSpec s.limits.maxPayload payload then .refused .operandOutsideSpec
  else runTxStages 6 { s with txFlight := some (.compress payload) }

/-- R189: `TX_CLOSE`. -/
def execTxClose (s : State) : Host.Outcome State Fault Refusal := .next ((closeDir .tx s).respond .ok [])

end Sys2Proof.Machine
end

