-- ==== Sys2Proof/Machine/Dispatch.lean ====
section
/-! DEFINITION. The meaning of each instruction, one arm per constructor. -/

namespace Sys2Proof.Machine

def exec (i : Instr) (s : State) : Host.Outcome State Fault Refusal :=
  match i with
  | .reset => Sys2Proof.Machine.execReset s
  | .txInit key iv => Sys2Proof.Machine.execTxInit key iv s
  | .txEncode payload => Sys2Proof.Machine.execTxEncode payload s
  | .txClose => Sys2Proof.Machine.execTxClose s
  | .rxInit key iv => Sys2Proof.Machine.execRxInit key iv s
  | .rxDecode wire => Sys2Proof.Machine.execRxDecode wire s
  | .rxClose => Sys2Proof.Machine.execRxClose s
  | .rdTxStatus => Sys2Proof.Machine.execRdTxStatus s
  | .rdRxStatus => Sys2Proof.Machine.execRdRxStatus s
  | .rdSendCtr => Sys2Proof.Machine.execRdSendCtr s
  | .rdRecvCtr => Sys2Proof.Machine.execRdRecvCtr s
  | .rdMonStatus => Sys2Proof.Machine.execRdMonStatus s
  | .txCompress => Sys2Proof.Machine.execTxCompress s
  | .txTagCompute => Sys2Proof.Machine.execTxTagCompute s
  | .txTagAppend => Sys2Proof.Machine.execTxTagAppend s
  | .txCtrInc => Sys2Proof.Machine.execTxCtrInc s
  | .txCipherEncrypt => Sys2Proof.Machine.execTxCipherEncrypt s
  | .txEmit => Sys2Proof.Machine.execTxEmit s
  | .rxCipherDecrypt => Sys2Proof.Machine.execRxCipherDecrypt s
  | .rxSplit => Sys2Proof.Machine.execRxSplit s
  | .rxTagCompute => Sys2Proof.Machine.execRxTagCompute s
  | .rxCtrInc => Sys2Proof.Machine.execRxCtrInc s
  | .rxTagCompare => Sys2Proof.Machine.execRxTagCompare s
  | .rxDecompress => Sys2Proof.Machine.execRxDecompress s
  | .rxEmit => Sys2Proof.Machine.execRxEmit s

end Sys2Proof.Machine
end

