-- ==== Sys2Proof/Machine/Port.lean ====
section
/-! DEFINITION. What a step takes next: the stage a datapath is waiting for (30_encoding.md R76, 10_state.md R20) and the transmission at the head of the command port (R60, R66 to R68). -/

namespace Sys2Proof.Machine

/-- What follows a command in its transmission waits at the head of the port. -/
def pushRest (rest : Bytes) (port : List PortInput) : List PortInput :=
  match rest with
  | [] => port
  | b :: bs => .frame (b :: bs) :: port

/-- The stage instruction a TX latch is waiting for. -/
def txDue : TxFlight → Instr
  | .compress _ => .txCompress
  | .tagCompute _ => .txTagCompute
  | .tagAppend _ _ => .txTagAppend
  | .ctrInc _ => .txCtrInc
  | .cipherEncrypt _ => .txCipherEncrypt
  | .emit _ => .txEmit

/-- The stage instruction an RX latch is waiting for. -/
def rxDue : RxFlight → Instr
  | .cipherDecrypt _ => .rxCipherDecrypt
  | .split _ => .rxSplit
  | .tagCompute _ _ => .rxTagCompute
  | .ctrInc _ _ _ => .rxCtrInc
  | .ctrIncShort => .rxCtrInc
  | .tagCompare _ _ _ => .rxTagCompare
  | .decompress _ => .rxDecompress
  | .emit _ => .rxEmit

/-- One transmission at the head of the port, `tail` behind it. -/
def stepFrame (bytes : Bytes) (tail : List PortInput) (s : State) : Host.Outcome State Fault Refusal :=
  match decodeFrame bytes with
  | .command i rest => exec i { s with port := pushRest rest tail }
  | .illegal _ rest => .next (illegalCommand { s with port := pushRest rest tail })
  | .malformed => .next (illegalCommand { s with port := tail })

/-- The latch that makes a stage the one that is due, its data empty; a command has none. -/
def stageLatch : Instr → Option (Option TxFlight × Option RxFlight)
  | .txCompress => some (some (.compress []), none)
  | .txTagCompute => some (some (.tagCompute []), none)
  | .txTagAppend => some (some (.tagAppend [] []), none)
  | .txCtrInc => some (some (.ctrInc []), none)
  | .txCipherEncrypt => some (some (.cipherEncrypt []), none)
  | .txEmit => some (some (.emit []), none)
  | .rxCipherDecrypt => some (none, some (.cipherDecrypt []))
  | .rxSplit => some (none, some (.split []))
  | .rxTagCompute => some (none, some (.tagCompute [] []))
  | .rxCtrInc => some (none, some (.ctrInc [] [] []))
  | .rxTagCompare => some (none, some (.tagCompare [] [] []))
  | .rxDecompress => some (none, some (.decompress []))
  | .rxEmit => some (none, some (.emit []))
  | .reset => none
  | .txInit _ _ => none
  | .txEncode _ => none
  | .txClose => none
  | .rxInit _ _ => none
  | .rxDecode _ => none
  | .rxClose => none
  | .rdTxStatus => none
  | .rdRxStatus => none
  | .rdSendCtr => none
  | .rdRecvCtr => none
  | .rdMonStatus => none

end Sys2Proof.Machine
end

