-- ==== Sys2Proof/Machine/Step.lean ====
section
/-! DEFINITION. One step of the block: the stage a datapath is waiting for, else the next input on the port, else nothing (20_memory.md R48, R49; 60_exceptions.md R269). -/

namespace Sys2Proof.Machine

/-- One step. A command runs whole in one step, so between commands no stage is due and the first two cases do not arise (10_state.md R20, R24; notes/assumptions/4.md). -/
def step (s : State) : Host.Outcome State Fault Refusal :=
  match s.txFlight, s.rxFlight, s.port with
  | some f, _, _ => exec (txDue f) s
  | none, some f, _ => exec (rxDue f) s
  | none, none, [] => .next s
  | none, none, .resetInput :: tail => .next (answerResetInput { s with port := tail })
  | none, none, .frame bytes :: tail => stepFrame bytes tail s

/-- `s` with the instruction of a table word as what the next step runs: a command's frame at the head of the port; for a stage identifier, the stage made due (notes/assumptions/6.md). -/
def State.withFetchWord (s : State) (nbits w : Nat) : State :=
  match decodeTableWord nbits w with
  | none => { s with txFlight := none, rxFlight := none, port := .frame (leBytes (nbits / 8) w) :: s.port }
  | some i =>
    match stageLatch i with
    | some (ft, fr) => { s with txFlight := ft, rxFlight := fr }
    | none => { s with txFlight := none, rxFlight := none, port := .frame (encode i) :: s.port }

end Sys2Proof.Machine
end

