-- ==== Sys2Proof/Machine/Asm.lean ====
section
/-! DEFINITION. The assembler syntax of 30_encoding.md R69 for the twelve commands and the pseudo-instructions of R70: rendering a command as a line, and reading a line. A line is a list of characters. -/

namespace Sys2Proof.Machine

/-- R69: one hexadecimal digit. -/
def hexDigit (n : Nat) : Char :=
  ['0', '1', '2', '3', '4', '5', '6', '7', '8', '9', 'a', 'b', 'c', 'd', 'e', 'f'].getD n '0'

/-- The value of a hexadecimal digit, in either case. -/
def hexValue (c : Char) : Option Nat :=
  if '0' ≤ c ∧ c ≤ '9' then some (c.toNat - 48)
  else if 'a' ≤ c ∧ c ≤ 'f' then some (c.toNat - 87)
  else if 'A' ≤ c ∧ c ≤ 'F' then some (c.toNat - 55)
  else none

/-- R62: the mnemonics of the commands. -/
def mnReset : List Char := ['R', 'E', 'S', 'E', 'T']
/-- R62. -/
def mnTxInit : List Char := ['T', 'X', '_', 'I', 'N', 'I', 'T']
/-- R62. -/
def mnTxEncode : List Char := ['T', 'X', '_', 'E', 'N', 'C', 'O', 'D', 'E']
/-- R62. -/
def mnTxClose : List Char := ['T', 'X', '_', 'C', 'L', 'O', 'S', 'E']
/-- R62. -/
def mnRxInit : List Char := ['R', 'X', '_', 'I', 'N', 'I', 'T']
/-- R62. -/
def mnRxDecode : List Char := ['R', 'X', '_', 'D', 'E', 'C', 'O', 'D', 'E']
/-- R62. -/
def mnRxClose : List Char := ['R', 'X', '_', 'C', 'L', 'O', 'S', 'E']
/-- R62. -/
def mnRdTxStatus : List Char := ['R', 'D', '_', 'T', 'X', '_', 'S', 'T', 'A', 'T', 'U', 'S']
/-- R62. -/
def mnRdRxStatus : List Char := ['R', 'D', '_', 'R', 'X', '_', 'S', 'T', 'A', 'T', 'U', 'S']
/-- R62. -/
def mnRdSendCtr : List Char := ['R', 'D', '_', 'S', 'E', 'N', 'D', '_', 'C', 'T', 'R']
/-- R62. -/
def mnRdRecvCtr : List Char := ['R', 'D', '_', 'R', 'E', 'C', 'V', '_', 'C', 'T', 'R']
/-- R62. -/
def mnRdMonStatus : List Char := ['R', 'D', '_', 'M', 'O', 'N', '_', 'S', 'T', 'A', 'T', 'U', 'S']
/-- R70. -/
def mnOpen : List Char := ['O', 'P', 'E', 'N']
/-- R70. -/
def mnOpen2 : List Char := ['O', 'P', 'E', 'N', '2']
/-- R70. -/
def mnShutdown : List Char := ['S', 'H', 'U', 'T', 'D', 'O', 'W', 'N']

/-- R69: the bytes of an operand as pairs with a space after each. -/
def renderPairs : Bytes → List Char
  | [] => []
  | b :: bs => hexDigit (b.toNat / 16) :: hexDigit (b.toNat % 16) :: ' ' :: renderPairs bs

/-- R69: an operand; two double quotes for the empty string. -/
def renderOperand (b : Bytes) : List Char :=
  match b with
  | [] => ['"', '"']
  | _ => renderPairs b

/-- R69: the line of a command; none for a stage, which no line can name. -/
def renderLine : Instr → Option (List Char)
  | .reset => some mnReset
  | .txInit key iv => some (mnTxInit ++ ' ' :: renderOperand key ++ ',' :: renderOperand iv)
  | .txEncode payload => some (mnTxEncode ++ ' ' :: renderOperand payload)
  | .txClose => some mnTxClose
  | .rxInit key iv => some (mnRxInit ++ ' ' :: renderOperand key ++ ',' :: renderOperand iv)
  | .rxDecode wire => some (mnRxDecode ++ ' ' :: renderOperand wire)
  | .rxClose => some mnRxClose
  | .rdTxStatus => some mnRdTxStatus
  | .rdRxStatus => some mnRdRxStatus
  | .rdSendCtr => some mnRdSendCtr
  | .rdRecvCtr => some mnRdRecvCtr
  | .rdMonStatus => some mnRdMonStatus
  | .txCompress => none
  | .txTagCompute => none
  | .txTagAppend => none
  | .txCtrInc => none
  | .txCipherEncrypt => none
  | .txEmit => none
  | .rxCipherDecrypt => none
  | .rxSplit => none
  | .rxTagCompute => none
  | .rxCtrInc => none
  | .rxTagCompare => none
  | .rxDecompress => none
  | .rxEmit => none

/-- Leading spaces dropped. -/
def skipSpaces (l : List Char) : List Char := l.dropWhile (· == ' ')

/-- R69: `;` outside a quoted string starts a comment. -/
def dropComment : Bool → List Char → List Char
  | _, [] => []
  | quoted, c :: cs =>
    if c = ';' ∧ quoted = false then []
    else if c = '"' then c :: dropComment (!quoted) cs
    else c :: dropComment quoted cs

/-- R69: the operands of a line: what stands between commas outside quoted strings; `cur` is the operand so far, newest character first. -/
def splitOperands : Bool → List Char → List Char → List (List Char)
  | _, cur, [] => [cur.reverse]
  | quoted, cur, c :: cs =>
    if c = ',' ∧ quoted = false then cur.reverse :: splitOperands false [] cs
    else if c = '"' then splitOperands (!quoted) (c :: cur) cs
    else splitOperands quoted (c :: cur) cs

/-- R69: hexadecimal byte pairs, each ended by a space or the end of the operand; spaces before a pair are skipped. -/
def readPairs : List Char → Option Bytes
  | [] => some []
  | ' ' :: cs => readPairs cs
  | h :: l :: cs =>
    match hexValue h, hexValue l with
    | some a, some b =>
      match cs with
      | [] => some [BitVec.ofNat 8 (16 * a + b)]
      | ' ' :: cs' =>
        match readPairs cs' with
        | some bs => some (BitVec.ofNat 8 (16 * a + b) :: bs)
        | none => none
      | _ => none
    | _, _ => none
  | _ :: [] => none

/-- R69: the ASCII characters up to the closing quote; only spaces may follow it. -/
def readQuoted : List Char → Option Bytes
  | [] => none
  | c :: cs =>
    if c = '"' then (if cs.all (· == ' ') then some [] else none)
    else if 128 ≤ c.toNat then none
    else
      match readQuoted cs with
      | some bs => some (BitVec.ofNat 8 c.toNat :: bs)
      | none => none

/-- R69: one byte-string operand; an operand with nothing in it is no operand. -/
def readOperand (l : List Char) : Option Bytes :=
  match skipSpaces l with
  | [] => none
  | '"' :: cs => readQuoted cs
  | c :: cs => readPairs (c :: cs)

/-- R69: an optional label before an operand of `*_INIT`. -/
def dropLabel (label l : List Char) : List Char :=
  let t := skipSpaces l
  if label.isPrefixOf t then t.drop label.length else t

/-- A line with one operand. -/
def readOne (f : Bytes → Instr) (ops : List (List Char)) : Option (List Instr) :=
  match ops with
  | [a] => (readOperand a).map (fun x => [f x])
  | _ => none

/-- A line with a key and an IV. -/
def readKeyIv (f : Bytes → Bytes → List Instr) (ops : List (List Char)) : Option (List Instr) :=
  match ops with
  | [a, b] =>
    match readOperand (dropLabel ['k', 'e', 'y', '='] a), readOperand (dropLabel ['i', 'v', '='] b) with
    | some x, some y => some (f x y)
    | _, _ => none
  | _ => none

/-- A line with a key and two IVs (R70). -/
def readKeyIvIv (f : Bytes → Bytes → Bytes → List Instr) (ops : List (List Char)) : Option (List Instr) :=
  match ops with
  | [a, b, c] =>
    match readOperand a, readOperand b, readOperand c with
    | some x, some y, some z => some (f x y z)
    | _, _, _ => none
  | _ => none

/-- A line without operands. -/
def readNone (i : List Instr) (ops : List (List Char)) : Option (List Instr) :=
  match ops with
  | [a] => if skipSpaces a = [] then some i else none
  | _ => none

/-- R62, R70: what a mnemonic and its operands stand for. -/
def readMnemonic (m : List Char) (ops : List (List Char)) : Option (List Instr) :=
  if m = mnReset then readNone [.reset] ops
  else if m = mnTxInit then readKeyIv (fun k v => [.txInit k v]) ops
  else if m = mnTxEncode then readOne .txEncode ops
  else if m = mnTxClose then readNone [.txClose] ops
  else if m = mnRxInit then readKeyIv (fun k v => [.rxInit k v]) ops
  else if m = mnRxDecode then readOne .rxDecode ops
  else if m = mnRxClose then readNone [.rxClose] ops
  else if m = mnRdTxStatus then readNone [.rdTxStatus] ops
  else if m = mnRdRxStatus then readNone [.rdRxStatus] ops
  else if m = mnRdSendCtr then readNone [.rdSendCtr] ops
  else if m = mnRdRecvCtr then readNone [.rdRecvCtr] ops
  else if m = mnRdMonStatus then readNone [.rdMonStatus] ops
  else if m = mnOpen then readKeyIv (fun k v => (Pseudo.openConn k v).expand) ops
  else if m = mnOpen2 then readKeyIvIv (fun k v w => (Pseudo.openConn2 k v w).expand) ops
  else if m = mnShutdown then readNone Pseudo.shutdown.expand ops
  else none

/-- R69: the commands of one line; a line that is blank or only a comment has none. -/
def readLine (l : List Char) : Option (List Instr) :=
  let t := skipSpaces (dropComment false l)
  if t = [] then some []
  else readMnemonic (t.takeWhile (· != ' ')) (splitOperands false [] (t.dropWhile (· != ' ')))

end Sys2Proof.Machine
end

