-- ==== Sys2Proof/Safety.lean ====
section
/-! DEFINITION. What the claims call a good state (10_state.md R15, R16, R25; 43_tx_encode.md R186; 30_encoding.md R64). -/

namespace Sys2Proof.Machine

/-- R16, 44_rx_decode.md R210: the codes a direction can die of. -/
def deathCodes : Side → List (BitVec 4)
  | .tx => [4#4, 6#4]
  | .rx => [2#4, 3#4, 4#4, 5#4, 6#4]

/-- R25 (a) to (c), with R186's narrower set for TX. -/
def Dir.good (d : Side) (x : Dir) : Prop :=
  match x.status with
  | .unconfigured => x = Dir.reset
  | .ready => x.err = 0#4
  | .dead => x.err ∈ deathCodes d

/-- An event the block can emit: an error event names a fatal code its direction can die of (R255, R250). -/
def Event.good : Event → Prop
  | .onEncoded _ => True
  | .onDecoded _ => True
  | .onError d c => c.fatal = true ∧ c.nibble ∈ deathCodes d

/-- R64: a response that is not OK carries no data. -/
def Output.good : Output → Prop
  | .event e => e.good
  | .response r => r.status ≠ .ok → r.data = []

/-- A stage is due only in a READY direction (60_exceptions.md R277). -/
def flightsGood (s : State) : Prop :=
  (s.txFlight ≠ none → s.tx.status = .ready) ∧ (s.rxFlight ≠ none → s.rx.status = .ready)

/-- The invariant: R25 (a) to (c) in both directions, legal outputs, stages due only where the direction is READY. -/
def State.Inv (s : State) : Prop :=
  s.tx.good .tx ∧ s.rx.good .rx ∧ (∀ o ∈ s.out, o.good) ∧ flightsGood s

/-- Between commands: no packet is in flight (10_state.md R24). -/
def State.atRest (s : State) : Prop := s.txFlight = none ∧ s.rxFlight = none

/-- 20_memory.md R49 (a): the instructions that touch TX alone: its commands, its two read-outs, its stages. -/
def ofTx : Instr → Bool
  | .txInit _ _ => true
  | .txEncode _ => true
  | .txClose => true
  | .rdTxStatus => true
  | .rdSendCtr => true
  | .txCompress => true
  | .txTagCompute => true
  | .txTagAppend => true
  | .txCtrInc => true
  | .txCipherEncrypt => true
  | .txEmit => true
  | .reset => false
  | .rxInit _ _ => false
  | .rxDecode _ => false
  | .rxClose => false
  | .rdRxStatus => false
  | .rdRecvCtr => false
  | .rdMonStatus => false
  | .rxCipherDecrypt => false
  | .rxSplit => false
  | .rxTagCompute => false
  | .rxCtrInc => false
  | .rxTagCompare => false
  | .rxDecompress => false
  | .rxEmit => false

/-- 20_memory.md R49 (a): the instructions that touch RX alone. -/
def ofRx : Instr → Bool
  | .rxInit _ _ => true
  | .rxDecode _ => true
  | .rxClose => true
  | .rdRxStatus => true
  | .rdRecvCtr => true
  | .rxCipherDecrypt => true
  | .rxSplit => true
  | .rxTagCompute => true
  | .rxCtrInc => true
  | .rxTagCompare => true
  | .rxDecompress => true
  | .rxEmit => true
  | .reset => false
  | .txInit _ _ => false
  | .txEncode _ => false
  | .txClose => false
  | .rdTxStatus => false
  | .rdSendCtr => false
  | .rdMonStatus => false
  | .txCompress => false
  | .txTagCompute => false
  | .txTagAppend => false
  | .txCtrInc => false
  | .txCipherEncrypt => false
  | .txEmit => false

/-- The commands that take a direction to UNCONFIGURED (R15, R26). -/
def closes (d : Side) (i : Instr) : Prop :=
  i = .reset ∨ (d = .tx ∧ i = .txClose) ∨ (d = .rx ∧ i = .rxClose)

/-- The commands that configure a direction (R15). -/
def configures (d : Side) (i : Instr) : Prop :=
  (d = .tx ∧ ∃ key iv, i = .txInit key iv) ∨ (d = .rx ∧ ∃ key iv, i = .rxInit key iv)

/-- What a step has added to the outputs. -/
def newOutputs (s t : State) : List Output := t.out.drop s.out.length

/-- The last 16 bytes of a string of 16 or more (44_rx_decode.md R210, 10_state.md R25 (e)). -/
def lastSixteen (b : Bytes) : Block := Block.ofBytes (b.drop (b.length - 16))

/-- 00_scope.md R5, R6: an operand the spec speaks of. -/
def admitted (bound : Option Nat) (b : Bytes) : Prop :=
  b.length < 2 ^ 61 - 40 ∧ ∀ m, bound = some m → b.length ≤ m

/-- Issues one command per operand; the data of the responses, if each is OK (44_rx_decode.md R211). -/
def sendAll (f : Bytes → Instr) : State → List Bytes → Option (List Bytes × State)
  | s, [] => some ([], s)
  | s, p :: ps =>
    match exec (f p) s with
    | .next t =>
      match t.out.getLast? with
      | some (.response ⟨.ok, w⟩) =>
        match sendAll f t ps with
        | some (ws, u) => some (w :: ws, u)
        | none => none
      | _ => none
    | _ => none

/-- 40_stream_cipher.md R102: `a • b`, the xor over the set bits `i` of `b` of `xtime` applied `i` times to `a`; `n` bits of `b` are looked at. -/
def gfMul : Nat → Byte → Byte → Byte
  | 0, _, _ => 0#8
  | n + 1, a, b => (if b.getLsbD 0 then a else 0#8) ^^^ gfMul n (xtime a) (b >>> 1)

/-- 40_stream_cipher.md R101: `Affine`, bit by bit. -/
def affine (b : Byte) : Byte :=
  b ^^^ b.rotateRight 4 ^^^ b.rotateRight 5 ^^^ b.rotateRight 6 ^^^ b.rotateRight 7 ^^^ 0x63#8

end Sys2Proof.Machine
end

