-- ==== Sys2Proof/Certificates/Slice0/Obligations.lean ====
section
/-! DEFINITION. The statements for the provers. Where a statement's conclusion is `exec i s = .next { s with … }`, every field it does not name is unchanged: that is the instruction's frame. -/

open Sys2Proof Sys2Proof.Machine

/-! ## Encoding and the command port -/

/-- 30_encoding.md R60, R62, R63, R68: the decoder reads back every command frame, whatever follows it. -/
def Obligations.DecodeOfEncodedCommand : Prop :=
  ∀ (i : Instr) (rest : Bytes), i.isCommand = true → i.wf = true →
    decodeFrame (encode i ++ rest) = .command i rest

/-- 30_encoding.md R60, R62, R63: the decoder accepts nothing but command frames. -/
def Obligations.DecodedFrameIsEncoding : Prop :=
  ∀ (bs : Bytes) (i : Instr) (rest : Bytes), decodeFrame bs = .command i rest →
    i.isCommand = true ∧ i.wf = true ∧ bs = encode i ++ rest

/-- 30_encoding.md R66: the illegal opcode bytes are these ranges and no others; the decoder consumes the one byte, and the answer is IllegalCommand with empty data, nothing else changed (what follows the byte waits at the head of the port, the model's choice: notes/assumptions/2.md). -/
def Obligations.IllegalOpcodeRejected : Prop :=
  (∀ (op : Byte) (rest : Bytes),
    decodeFrame (op :: rest) = .illegal op rest ↔
      ((0x01 ≤ op.toNat ∧ op.toNat ≤ 0x0F) ∨ (0x12 ≤ op.toNat ∧ op.toNat ≤ 0x1E) ∨
        (0x22 ≤ op.toNat ∧ op.toNat ≤ 0x2E) ∨ (0x35 ≤ op.toNat ∧ op.toNat ≤ 0x3F) ∨ 0x40 ≤ op.toNat)) ∧
  (∀ (s : State) (op : Byte) (rest : Bytes) (tail : List PortInput), s.atRest →
    s.port = .frame (op :: rest) :: tail → decodeFrame (op :: rest) = .illegal op rest →
    step s = .next { s with port := pushRest rest tail, out := s.out ++ [.response ⟨.illegalCommand, []⟩] })

/-- 30_encoding.md R67: a command frame cut short anywhere after its opcode byte changes nothing and is answered IllegalCommand (one transmission on the port holds the cut frame, the model's choice: notes/assumptions/2.md). -/
def Obligations.TruncatedFrameRejected : Prop :=
  ∀ (s : State) (i : Instr) (k : Nat) (tail : List PortInput), s.atRest → i.isCommand = true → i.wf = true →
    0 < k → k < (encode i).length → s.port = .frame ((encode i).take k) :: tail →
    step s = .next { s with port := tail, out := s.out ++ [.response ⟨.illegalCommand, []⟩] }

/-- A step runs the decoded instruction: at rest, with a command at the head of the port, a step is `exec` of it on the state whose port holds what follows (the rest of the transmission first: notes/assumptions/2.md). -/
def Obligations.StepRunsDecodedCommand : Prop :=
  ∀ (s : State) (bytes : Bytes) (i : Instr) (rest : Bytes) (tail : List PortInput), s.atRest →
    s.port = .frame bytes :: tail → decodeFrame bytes = .command i rest →
    step s = exec i { s with port := (if rest = [] then tail else .frame rest :: tail) }

/-- The model's choice (notes/assumptions/3.md, 4.md): a stage that is due runs before the port is looked at, TX first; with nothing due and nothing on the port the block holds its state (60_exceptions.md R269). -/
def Obligations.StepRunsDueStageOrIdles : Prop :=
  (∀ (s : State) (f : TxFlight), s.txFlight = some f → step s = exec (txDue f) s) ∧
  (∀ (s : State) (f : RxFlight), s.txFlight = none → s.rxFlight = some f → step s = exec (rxDue f) s) ∧
  (∀ s : State, s.atRest → s.port = [] → step s = .next s)

/-- 70_reset_and_hazards.md R290 (a), R305: the hardware reset input puts every state field at its reset value, empties the trace and is answered OK. That what the outside world holds stays, and that the responses given before leave the model's record, is the model's choice: notes/assumptions/17.md, 18.md. -/
def Obligations.ResetInputClearsBlock : Prop :=
  ∀ (s : State) (tail : List PortInput), s.atRest → s.port = .resetInput :: tail →
    step s = .next { tx := Dir.reset, rx := Dir.reset, out := [.response ⟨.ok, []⟩], txFlight := none, rxFlight := none,
                     port := tail, txEnv := s.txEnv, rxEnv := s.rxEnv, limits := s.limits }

/-- Decoding is right: one word of each family, written out from 30_encoding.md R60, R62 and R76. -/
def Obligations.SpecWordsDecode : Prop :=
  decodeFrame [0x00#8] = .command .reset [] ∧
  decodeFrame [0x11#8, 0x03#8, 0x00#8, 0x00#8, 0x00#8, 0x61#8, 0x62#8, 0x63#8] =
    .command (.txEncode [0x61#8, 0x62#8, 0x63#8]) [] ∧
  decodeFrame [0x20#8, 0x01#8, 0x00#8, 0x00#8, 0x00#8, 0xAA#8, 0x02#8, 0x00#8, 0x00#8, 0x00#8, 0xBB#8, 0xCC#8, 0x33#8] =
    .command (.rxInit [0xAA#8] [0xBB#8, 0xCC#8]) [0x33#8] ∧
  decodeFrame [0x34#8] = .command .rdMonStatus [] ∧
  decodeStage 0x14#8 = some .txCtrInc ∧ decodeStage 0x25#8 = some .rxTagCompare ∧
  decodeTableWord 8 0x12 = some .txTagCompute ∧ decodeTableWord 8 0x40 = none

/-- 30_encoding.md R69: the line rendered for a command reads back as that one command. -/
def Obligations.AssemblerLineReadsBack : Prop :=
  ∀ i : Instr, i.isCommand = true → ∃ l, renderLine i = some l ∧ readLine l = some [i]

/-! ## Reset, invariants, outputs -/

/-- The state after reset meets the invariant (10_state.md R25, R26). -/
def Obligations.ResetStateMeetsInvariant : Prop := State.reset.Inv

/-- 70_reset_and_hazards.md R291: the values after reset, in the fields and through the five read-only registers; the only commands with an effect are TX_INIT and RX_INIT; TX_ENCODE and RX_DECODE answer IllegalState. -/
def Obligations.ResetValuesAndAnswers : Prop :=
  (∀ x : Dir, x = State.reset.tx ∨ x = State.reset.rx →
    x.status = .unconfigured ∧ x.err = 0#4 ∧ x.ctr = 0#64 ∧
      x.key.toList = List.replicate 32 0#8 ∧ x.shift.toList = List.replicate 16 0#8) ∧
  register State.reset 0 = some [0x00#8] ∧ register State.reset 1 = some [0x00#8] ∧
  register State.reset 2 = some (List.replicate 8 0x00#8) ∧ register State.reset 3 = some (List.replicate 8 0x00#8) ∧
  register State.reset 4 = some [0x00#8] ∧
  (∀ i : Instr, i.isCommand = true → ¬ configures .tx i → ¬ configures .rx i →
    ∃ r, exec i State.reset = .next { State.reset with out := [.response r] }) ∧
  (∀ payload : Bytes, exec (.txEncode payload) State.reset =
    .next { State.reset with out := [.response ⟨.illegalState, []⟩] }) ∧
  (∀ wire : Bytes, exec (.rxDecode wire) State.reset =
    .next { State.reset with out := [.response ⟨.illegalState, []⟩] }) ∧
  (∀ i ∈ [Instr.rdTxStatus, .rdRxStatus, .rdMonStatus], exec i State.reset =
    .next { State.reset with out := [.response ⟨.ok, [0x00#8]⟩] }) ∧
  (∀ i ∈ [Instr.rdSendCtr, .rdRecvCtr], exec i State.reset =
    .next { State.reset with out := [.response ⟨.ok, List.replicate 8 0x00#8⟩] })

/-- 10_state.md R25 (a) to (c), R15, R16, 43_tx_encode.md R186, 30_encoding.md R64: every step keeps the invariant: an UNCONFIGURED direction is at its reset values, a READY one has no error code, a DEAD one has a code its direction can die of, every response that is not OK is empty, every error event names such a code, and a stage is due only in a READY direction (the latches are the model's choice: notes/assumptions/4.md). -/
def Obligations.StepKeepsInvariant : Prop :=
  ∀ s t : State, s.Inv → step s = .next t → t.Inv

/-- 10_state.md R24: nothing of a packet survives its command: a step from a state at rest ends at rest (the latches are the model's choice: notes/assumptions/4.md). -/
def Obligations.StepLeavesNothingInFlight : Prop :=
  ∀ s t : State, s.atRest → step s = .next t → t.atRest

/-- 10_state.md R28: the output trace is append-only; only the hardware reset input empties it. -/
def Obligations.OutputOnlyGrows : Prop :=
  (∀ (i : Instr) (s t : State), exec i s = .next t → ∃ new, t.out = s.out ++ new ∧ t.trace = s.trace ++ new.filterMap Output.event?) ∧
  (∀ s t : State, step s = .next t → (∀ tail, s.port ≠ .resetInput :: tail) → ∃ new, t.out = s.out ++ new)

/-- 30_encoding.md R64, 60_exceptions.md R252: every command adds at most one event and then exactly one response; the response's data is empty unless the status is OK, and then has the length its command gives it. -/
def Obligations.OneResponseEachCommand : Prop :=
  ∀ (i : Instr) (s t : State), i.isCommand = true → exec i s = .next t →
    ∃ (events : List Event) (r : Response),
      t.out = s.out ++ events.map .event ++ [.response r] ∧ events.length ≤ 1 ∧
      (r.status ≠ .ok → r.data = []) ∧
      (i = .rdTxStatus ∨ i = .rdRxStatus ∨ i = .rdMonStatus → r.status = .ok ∧ r.data.length = 1) ∧
      (i = .rdSendCtr ∨ i = .rdRecvCtr → r.status = .ok ∧ r.data.length = 8) ∧
      (i = .reset ∨ i = .txClose ∨ i = .rxClose ∨ configures .tx i ∨ configures .rx i → r.data = [])

/-- 60_exceptions.md R253: on_encoded is emitted by TX_ENCODE exactly when it returns OK, with the same bytes as the response, and by no other command. -/
def Obligations.EncodedEventExactlyOnOk : Prop :=
  ∀ (i : Instr) (s t : State) (wire : Bytes), i.isCommand = true → exec i s = .next t →
    (.event (.onEncoded wire) ∈ newOutputs s t ↔
      (∃ payload, i = .txEncode payload) ∧ .response ⟨.ok, wire⟩ ∈ newOutputs s t)

/-- 60_exceptions.md R254: on_decoded is emitted by RX_DECODE exactly when it returns OK, with the same bytes as the response, and by no other command. -/
def Obligations.DecodedEventExactlyOnOk : Prop :=
  ∀ (i : Instr) (s t : State) (payload : Bytes), i.isCommand = true → exec i s = .next t →
    (.event (.onDecoded payload) ∈ newOutputs s t ↔
      (∃ wire, i = .rxDecode wire) ∧ .response ⟨.ok, payload⟩ ∈ newOutputs s t)

/-- 60_exceptions.md R255, R256: on_error is emitted exactly when a direction goes from READY to DEAD, with that direction and the code that `err` then holds; the response carries the same code and no data. -/
def Obligations.ErrorEventExactlyOnDeath : Prop :=
  ∀ (i : Instr) (s t : State) (d : Side), i.isCommand = true → exec i s = .next t →
    ((∃ c, .event (.onError d c) ∈ newOutputs s t) ↔ ((s.dir d).status = .ready ∧ (t.dir d).status = .dead)) ∧
    (∀ c, .event (.onError d c) ∈ newOutputs s t →
      newOutputs s t = [.event (.onError d c), .response ⟨c, []⟩] ∧ c.fatal = true ∧ (t.dir d).err = c.nibble)

/-! ## The commands -/

/-- 45_counter_monitor_and_control.md R232: RESET puts both directions at the reset values, answers OK once, keeps the trace, in every state; on the directions it is TX_CLOSE followed by RX_CLOSE. That it also empties the latches is the model's choice: notes/assumptions/4.md. -/
def Obligations.ResetCommandResult : Prop :=
  ∀ s : State,
    exec .reset s = .next { s with tx := Dir.reset, rx := Dir.reset, txFlight := none, rxFlight := none,
                                   out := s.out ++ [.response ⟨.ok, []⟩] } ∧
    ∃ u v, exec .txClose s = .next u ∧ exec .rxClose u = .next v ∧
      exec .reset s = .next { v with out := s.out ++ [.response ⟨.ok, []⟩] }

/-- 43_tx_encode.md R180: TX_INIT's three outcomes, told apart by the status first and then the two lengths. -/
def Obligations.TxInitOutcomes : Prop :=
  ∀ (s : State) (key iv : Bytes),
    (s.tx.status ≠ .unconfigured →
      exec (.txInit key iv) s = .next { s with out := s.out ++ [.response ⟨.illegalState, []⟩] }) ∧
    (s.tx.status = .unconfigured → key.length ≠ 32 ∨ iv.length ≠ 16 →
      exec (.txInit key iv) s = .next { s with out := s.out ++ [.response ⟨.configurationError, []⟩] }) ∧
    (s.tx.status = .unconfigured → key.length = 32 → iv.length = 16 →
      ∃ (k : Key) (v : Block), k.toList = key ∧ v.toList = iv ∧
        exec (.txInit key iv) s =
          .next { s with tx := { status := .ready, err := 0#4, key := k, shift := v, ctr := 0#64 },
                         out := s.out ++ [.response ⟨.ok, []⟩] })

/-- 44_rx_decode.md R200: RX_INIT's three outcomes. -/
def Obligations.RxInitOutcomes : Prop :=
  ∀ (s : State) (key iv : Bytes),
    (s.rx.status ≠ .unconfigured →
      exec (.rxInit key iv) s = .next { s with out := s.out ++ [.response ⟨.illegalState, []⟩] }) ∧
    (s.rx.status = .unconfigured → key.length ≠ 32 ∨ iv.length ≠ 16 →
      exec (.rxInit key iv) s = .next { s with out := s.out ++ [.response ⟨.configurationError, []⟩] }) ∧
    (s.rx.status = .unconfigured → key.length = 32 → iv.length = 16 →
      ∃ (k : Key) (v : Block), k.toList = key ∧ v.toList = iv ∧
        exec (.rxInit key iv) s =
          .next { s with rx := { status := .ready, err := 0#4, key := k, shift := v, ctr := 0#64 },
                         out := s.out ++ [.response ⟨.ok, []⟩] })

/-- 43_tx_encode.md R189, 44_rx_decode.md R208: TX_CLOSE and RX_CLOSE, in every state. That they also empty the direction's latch is the model's choice: notes/assumptions/4.md. -/
def Obligations.CloseCommandsResult : Prop :=
  ∀ s : State,
    exec .txClose s =
      .next { s with tx := { status := .unconfigured, err := 0#4, key := Vector.replicate 32 0#8,
                             shift := Vector.replicate 16 0#8, ctr := 0#64 },
                     txFlight := none, out := s.out ++ [.response ⟨.ok, []⟩] } ∧
    exec .rxClose s =
      .next { s with rx := { status := .unconfigured, err := 0#4, key := Vector.replicate 32 0#8,
                             shift := Vector.replicate 16 0#8, ctr := 0#64 },
                     rxFlight := none, out := s.out ++ [.response ⟨.ok, []⟩] }

/-- 43_tx_encode.md R181, R185: TX_ENCODE on a READY direction, with the counter below 2^64 - 1 and no cipher fault: the wire bytes are CFB-8 under AES-256 of the compressed payload and the tag, the tag is the first 8 bytes of SHA-256 over counter, compressed payload and key with the counter before its increment, `S` is afterwards the last 16 bytes of `S ‖ W`, the wire bytes are the event and the response, nothing else changes but the environment's draw. The latches and the environment's list of answers are the model's choice: notes/assumptions/4.md, 8.md. So is that a payload whose packet passes the bound of 00_scope.md R6 runs, its tag a free value beyond the bound of R126: notes/assumptions/12.md, 23.md. -/
def Obligations.TxEncodeDelivers : Prop :=
  ∀ (s : State) (payload c pkt wire : Bytes),
    s.tx.status = .ready → admitted s.limits.maxPayload payload → s.tx.ctr ≠ BitVec.allOnes 64 →
    s.txEnv.faults.headD false = false →
    c = compress payload →
    pkt = c ++ (sha256 (leBytes 8 s.tx.ctr.toNat ++ c ++ s.tx.key.toList)).take 8 →
    wire = (cfb8Enc aes256 s.tx.key s.tx.shift pkt).1 →
    exec (.txEncode payload) s =
      .next { s with tx := { s.tx with ctr := s.tx.ctr + 1#64, shift := lastSixteen (s.tx.shift.toList ++ wire) },
                     txFlight := none, txEnv := { s.txEnv with faults := s.txEnv.faults.tail },
                     out := s.out ++ [.event (.onEncoded wire), .response ⟨.ok, wire⟩] } ∧
    wire.length = c.length + 8

/-- 44_rx_decode.md R201: RX_DECODE on a READY direction of a packet of 8 bytes or more whose last 8 bytes are the tag of the rest and whose rest inflates, within MAX_INFLATE_BYTES where one is set. The latches and the environment's list of answers are the model's choice: notes/assumptions/4.md, 8.md. So is that a payload beyond 00_scope.md R6 is delivered where no smaller MAX_INFLATE_BYTES is set: notes/assumptions/24.md. -/
def Obligations.RxDecodeDelivers : Prop :=
  ∀ (s : State) (wire pkt c payload : Bytes),
    s.rx.status = .ready → admitted s.limits.maxWire wire → s.rx.ctr ≠ BitVec.allOnes 64 →
    s.rxEnv.faults.headD false = false →
    pkt = (cfb8Dec aes256 s.rx.key s.rx.shift wire).1 → 8 ≤ wire.length → c = pkt.take (wire.length - 8) →
    pkt.drop (wire.length - 8) = (sha256 (leBytes 8 s.rx.ctr.toNat ++ c ++ s.rx.key.toList)).take 8 →
    inflate c = some payload → (∀ m, s.limits.maxInflate = some m → payload.length ≤ m) →
    exec (.rxDecode wire) s =
      .next { s with rx := { s.rx with ctr := s.rx.ctr + 1#64, shift := lastSixteen (s.rx.shift.toList ++ wire) },
                     rxFlight := none, rxEnv := { s.rxEnv with faults := s.rxEnv.faults.tail },
                     out := s.out ++ [.event (.onDecoded payload), .response ⟨.ok, payload⟩] }

/-- 60_exceptions.md R275: at 2^64 - 1 the counter does not wrap and the direction dies of CounterOverflow: on TX no wire bytes and `S` where it was, on RX `S` advanced over the wire bytes. The latches and the environment's list of answers are the model's choice: notes/assumptions/4.md, 8.md. -/
def Obligations.CounterOverflowEntry : Prop :=
  (∀ (s : State) (payload : Bytes), s.tx.status = .ready → admitted s.limits.maxPayload payload →
    s.tx.ctr = BitVec.allOnes 64 →
    exec (.txEncode payload) s =
      .next { s with tx := { s.tx with status := .dead, err := 6#4 }, txFlight := none,
                     out := s.out ++ [.event (.onError .tx .counterOverflow), .response ⟨.counterOverflow, []⟩] }) ∧
  (∀ (s : State) (wire : Bytes), s.rx.status = .ready → admitted s.limits.maxWire wire →
    s.rx.ctr = BitVec.allOnes 64 → s.rxEnv.faults.headD false = false →
    exec (.rxDecode wire) s =
      .next { s with rx := { s.rx with status := .dead, err := 6#4, shift := lastSixteen (s.rx.shift.toList ++ wire) },
                     rxFlight := none, rxEnv := { s.rxEnv with faults := s.rxEnv.faults.tail },
                     out := s.out ++ [.event (.onError .rx .counterOverflow), .response ⟨.counterOverflow, []⟩] })

/-- 60_exceptions.md R270: where CIPHER_FAULT answers true, the direction dies of CipherError; the TX counter has moved, the RX counter has not; of `S` nothing is said but that it is some 16 bytes; no wire bytes, no payload. The latches and the environment's list of answers are the model's choice: notes/assumptions/4.md, 8.md. -/
def Obligations.CipherErrorEntry : Prop :=
  (∀ (s : State) (payload : Bytes), s.tx.status = .ready → admitted s.limits.maxPayload payload →
    s.tx.ctr ≠ BitVec.allOnes 64 → s.txEnv.faults.headD false = true →
    ∃ (v : Block) (n : Nat), exec (.txEncode payload) s =
      .next { s with tx := { s.tx with status := .dead, err := 4#4, ctr := s.tx.ctr + 1#64, shift := v },
                     txFlight := none, txEnv := { faults := s.txEnv.faults.tail, draws := n },
                     out := s.out ++ [.event (.onError .tx .cipherError), .response ⟨.cipherError, []⟩] }) ∧
  (∀ (s : State) (wire : Bytes), s.rx.status = .ready → admitted s.limits.maxWire wire →
    s.rxEnv.faults.headD false = true →
    ∃ (v : Block) (n : Nat), exec (.rxDecode wire) s =
      .next { s with rx := { s.rx with status := .dead, err := 4#4, shift := v },
                     rxFlight := none, rxEnv := { faults := s.rxEnv.faults.tail, draws := n },
                     out := s.out ++ [.event (.onError .rx .cipherError), .response ⟨.cipherError, []⟩] })

/-- 60_exceptions.md R274, 44_rx_decode.md R210: a wire packet under 8 bytes: the cipher runs over it, the counter moves, the direction dies of ShortPacket. The latches and the environment's list of answers are the model's choice: notes/assumptions/4.md, 8.md. -/
def Obligations.ShortPacketEntry : Prop :=
  ∀ (s : State) (wire : Bytes), s.rx.status = .ready → admitted s.limits.maxWire wire → wire.length < 8 →
    s.rx.ctr ≠ BitVec.allOnes 64 → s.rxEnv.faults.headD false = false →
    exec (.rxDecode wire) s =
      .next { s with rx := { s.rx with status := .dead, err := 5#4, ctr := s.rx.ctr + 1#64,
                                       shift := lastSixteen (s.rx.shift.toList ++ wire) },
                     rxFlight := none, rxEnv := { s.rxEnv with faults := s.rxEnv.faults.tail },
                     out := s.out ++ [.event (.onError .rx .shortPacket), .response ⟨.shortPacket, []⟩] }

/-- 60_exceptions.md R272, 44_rx_decode.md R209: the last 8 bytes of the packet are not the tag of the rest: the counter has moved, the direction dies of ChecksumMismatch, whatever the rest inflates to; RX_STATUS then reads 0x22 and bit 2 of MON_STATUS 1. The latches and the environment's list of answers are the model's choice: notes/assumptions/4.md, 8.md. -/
def Obligations.ChecksumMismatchEntry : Prop :=
  ∀ (s : State) (wire pkt : Bytes),
    s.rx.status = .ready → admitted s.limits.maxWire wire → s.rx.ctr ≠ BitVec.allOnes 64 →
    s.rxEnv.faults.headD false = false → 8 ≤ wire.length →
    pkt = (cfb8Dec aes256 s.rx.key s.rx.shift wire).1 →
    pkt.drop (wire.length - 8) ≠
      (sha256 (leBytes 8 s.rx.ctr.toNat ++ pkt.take (wire.length - 8) ++ s.rx.key.toList)).take 8 →
    ∃ t, exec (.rxDecode wire) s = .next t ∧
      t = { s with rx := { s.rx with status := .dead, err := 2#4, ctr := s.rx.ctr + 1#64,
                                     shift := lastSixteen (s.rx.shift.toList ++ wire) },
                   rxFlight := none, rxEnv := { s.rxEnv with faults := s.rxEnv.faults.tail },
                   out := s.out ++ [.event (.onError .rx .checksumMismatch), .response ⟨.checksumMismatch, []⟩] } ∧
      register t 1 = some [0x22#8] ∧ (monStatusByte t).getLsbD 2 = true

/-- 60_exceptions.md R273: the tag matches and the rest does not inflate, or not within MAX_INFLATE_BYTES: the direction dies of CompressionError; RX_STATUS then reads 0x32. The latches and the environment's list of answers are the model's choice: notes/assumptions/4.md, 8.md. So is that a payload beyond 00_scope.md R6 is delivered where no smaller MAX_INFLATE_BYTES is set: notes/assumptions/24.md. -/
def Obligations.CompressionErrorEntry : Prop :=
  ∀ (s : State) (wire pkt c : Bytes),
    s.rx.status = .ready → admitted s.limits.maxWire wire → s.rx.ctr ≠ BitVec.allOnes 64 →
    s.rxEnv.faults.headD false = false → 8 ≤ wire.length →
    pkt = (cfb8Dec aes256 s.rx.key s.rx.shift wire).1 → c = pkt.take (wire.length - 8) →
    pkt.drop (wire.length - 8) = (sha256 (leBytes 8 s.rx.ctr.toNat ++ c ++ s.rx.key.toList)).take 8 →
    (∀ p, inflate c = some p → ∃ m, s.limits.maxInflate = some m ∧ m < p.length) →
    ∃ t, exec (.rxDecode wire) s = .next t ∧
      t = { s with rx := { s.rx with status := .dead, err := 3#4, ctr := s.rx.ctr + 1#64,
                                     shift := lastSixteen (s.rx.shift.toList ++ wire) },
                   rxFlight := none, rxEnv := { s.rxEnv with faults := s.rxEnv.faults.tail },
                   out := s.out ++ [.event (.onError .rx .compressionError), .response ⟨.compressionError, []⟩] } ∧
      register t 1 = some [0x32#8]

/-- 60_exceptions.md R277: the commands that are not legal in the direction's status answer IllegalState and change nothing; the others never answer it. -/
def Obligations.IllegalStateExactlyWhere : Prop :=
  (∀ (s : State) (key iv : Bytes), s.tx.status ≠ .unconfigured →
    exec (.txInit key iv) s = .next { s with out := s.out ++ [.response ⟨.illegalState, []⟩] }) ∧
  (∀ (s : State) (key iv : Bytes), s.rx.status ≠ .unconfigured →
    exec (.rxInit key iv) s = .next { s with out := s.out ++ [.response ⟨.illegalState, []⟩] }) ∧
  (∀ (s : State) (payload : Bytes), s.tx.status ≠ .ready →
    exec (.txEncode payload) s = .next { s with out := s.out ++ [.response ⟨.illegalState, []⟩] }) ∧
  (∀ (s : State) (wire : Bytes), s.rx.status ≠ .ready →
    exec (.rxDecode wire) s = .next { s with out := s.out ++ [.response ⟨.illegalState, []⟩] }) ∧
  (∀ (i : Instr) (s t : State) (data : Bytes), i.isCommand = true → exec i s = .next t →
    .response ⟨.illegalState, data⟩ ∈ newOutputs s t →
    (configures .tx i ∧ s.tx.status ≠ .unconfigured) ∨ (configures .rx i ∧ s.rx.status ≠ .unconfigured) ∨
    ((∃ payload, i = .txEncode payload) ∧ s.tx.status ≠ .ready) ∨ ((∃ wire, i = .rxDecode wire) ∧ s.rx.status ≠ .ready))

/-- The model's choice (notes/assumptions/11.md): on a READY direction an operand outside the spec (00_scope.md R6; 93_implementation_defined.md U12 `refuse`) is refused by name; no other command and no other operand is refused, and nothing faults. -/
def Obligations.OnlyOperandsOutsideSpecRefused : Prop :=
  (∀ (s : State) (payload : Bytes), s.tx.status = .ready →
    (exec (.txEncode payload) s = .refused .operandOutsideSpec ↔ ¬ admitted s.limits.maxPayload payload)) ∧
  (∀ (s : State) (wire : Bytes), s.rx.status = .ready →
    (exec (.rxDecode wire) s = .refused .operandOutsideSpec ↔ ¬ admitted s.limits.maxWire wire)) ∧
  (∀ (i : Instr) (s : State), (∃ t, exec i s = .next t) ∨ exec i s = .refused .operandOutsideSpec) ∧
  (∀ (i : Instr) (s : State) (r : Refusal), exec i s = .refused r →
    (∃ payload, i = .txEncode payload ∧ s.tx.status = .ready) ∨ (∃ wire, i = .rxDecode wire ∧ s.rx.status = .ready))

/-! ## The stages -/

/-- 43_tx_encode.md R182, R183, R184: the three stages that write no state: each leaves in the latch what the next one needs. The latch is the model's choice: notes/assumptions/4.md. The tag of a compressed string beyond 00_scope.md R6, whose hash input is beyond R126, is a free value: notes/assumptions/12.md, 23.md. -/
def Obligations.TxCompressTagAppendStages : Prop :=
  (∀ (s : State) (payload : Bytes), s.txFlight = some (.compress payload) →
    exec .txCompress s = .next { s with txFlight := some (.tagCompute (compress payload)) }) ∧
  (∀ (s : State) (c : Bytes), s.txFlight = some (.tagCompute c) →
    exec .txTagCompute s =
      .next { s with txFlight := some (.tagAppend c ((sha256 (leBytes 8 s.tx.ctr.toNat ++ c ++ s.tx.key.toList)).take 8)) }) ∧
  (∀ (s : State) (c t : Bytes), s.txFlight = some (.tagAppend c t) →
    exec .txTagAppend s = .next { s with txFlight := some (.ctrInc (c ++ t)) })

/-- 45_counter_monitor_and_control.md R221, R222, R223: the two counter stages, below 2^64 - 1 and at it; for a packet too short to split the command then ends in ShortPacket. The latch is the model's choice: notes/assumptions/4.md. -/
def Obligations.CounterStages : Prop :=
  (∀ (s : State) (pkt : Bytes), s.txFlight = some (.ctrInc pkt) → s.tx.ctr ≠ BitVec.allOnes 64 →
    ∃ ctr' : Ctr, ctr'.toNat = s.tx.ctr.toNat + 1 ∧
      exec .txCtrInc s = .next { s with tx := { s.tx with ctr := ctr' }, txFlight := some (.cipherEncrypt pkt) }) ∧
  (∀ (s : State) (pkt : Bytes), s.txFlight = some (.ctrInc pkt) → s.tx.ctr = BitVec.allOnes 64 →
    exec .txCtrInc s =
      .next { s with tx := { s.tx with status := .dead, err := 6#4 }, txFlight := none,
                     out := s.out ++ [.event (.onError .tx .counterOverflow), .response ⟨.counterOverflow, []⟩] }) ∧
  (∀ (s : State) (c r x : Bytes), s.rxFlight = some (.ctrInc c r x) → s.rx.ctr ≠ BitVec.allOnes 64 →
    ∃ ctr' : Ctr, ctr'.toNat = s.rx.ctr.toNat + 1 ∧
      exec .rxCtrInc s = .next { s with rx := { s.rx with ctr := ctr' }, rxFlight := some (.tagCompare c r x) }) ∧
  (∀ s : State, s.rxFlight = some .ctrIncShort → s.rx.ctr ≠ BitVec.allOnes 64 →
    ∃ ctr' : Ctr, ctr'.toNat = s.rx.ctr.toNat + 1 ∧
      exec .rxCtrInc s =
        .next { s with rx := { s.rx with status := .dead, err := 5#4, ctr := ctr' }, rxFlight := none,
                       out := s.out ++ [.event (.onError .rx .shortPacket), .response ⟨.shortPacket, []⟩] }) ∧
  (∀ (s : State) (f : RxFlight), s.rxFlight = some f → rxDue f = .rxCtrInc → s.rx.ctr = BitVec.allOnes 64 →
    exec .rxCtrInc s =
      .next { s with rx := { s.rx with status := .dead, err := 6#4 }, rxFlight := none,
                     out := s.out ++ [.event (.onError .rx .counterOverflow), .response ⟨.counterOverflow, []⟩] })

/-- 43_tx_encode.md R187, R188: the cipher stage over the whole packet, and the delivery. The latch and the environment's list of answers are the model's choice: notes/assumptions/4.md, 8.md. -/
def Obligations.TxCipherAndEmitStages : Prop :=
  (∀ (s : State) (pkt wire : Bytes), s.txFlight = some (.cipherEncrypt pkt) → s.txEnv.faults.headD false = false →
    wire = (cfb8Enc aes256 s.tx.key s.tx.shift pkt).1 →
    wire.length = pkt.length ∧
    exec .txCipherEncrypt s =
      .next { s with tx := { s.tx with shift := lastSixteen (s.tx.shift.toList ++ wire) }, txFlight := some (.emit wire),
                     txEnv := { s.txEnv with faults := s.txEnv.faults.tail } }) ∧
  (∀ (s : State) (pkt : Bytes), s.txFlight = some (.cipherEncrypt pkt) → s.txEnv.faults.headD false = true →
    ∃ (v : Block) (n : Nat), exec .txCipherEncrypt s =
      .next { s with tx := { s.tx with status := .dead, err := 4#4, shift := v }, txFlight := none,
                     txEnv := { faults := s.txEnv.faults.tail, draws := n },
                     out := s.out ++ [.event (.onError .tx .cipherError), .response ⟨.cipherError, []⟩] }) ∧
  (∀ (s : State) (wire : Bytes), s.txFlight = some (.emit wire) →
    exec .txEmit s =
      .next { s with txFlight := none, out := s.out ++ [.event (.onEncoded wire), .response ⟨.ok, wire⟩] })

/-- 44_rx_decode.md R202, R203, R204: decryption of the whole operand, the split, the expected tag. The latch and the environment's list of answers are the model's choice: notes/assumptions/4.md, 8.md. -/
def Obligations.RxDecryptSplitTagStages : Prop :=
  (∀ (s : State) (wire pkt : Bytes), s.rxFlight = some (.cipherDecrypt wire) → s.rxEnv.faults.headD false = false →
    pkt = (cfb8Dec aes256 s.rx.key s.rx.shift wire).1 →
    pkt.length = wire.length ∧
    exec .rxCipherDecrypt s =
      .next { s with rx := { s.rx with shift := lastSixteen (s.rx.shift.toList ++ wire) }, rxFlight := some (.split pkt),
                     rxEnv := { s.rxEnv with faults := s.rxEnv.faults.tail } }) ∧
  (∀ (s : State) (wire : Bytes), s.rxFlight = some (.cipherDecrypt wire) → s.rxEnv.faults.headD false = true →
    ∃ (v : Block) (n : Nat), exec .rxCipherDecrypt s =
      .next { s with rx := { s.rx with status := .dead, err := 4#4, shift := v }, rxFlight := none,
                     rxEnv := { faults := s.rxEnv.faults.tail, draws := n },
                     out := s.out ++ [.event (.onError .rx .cipherError), .response ⟨.cipherError, []⟩] }) ∧
  (∀ (s : State) (c r : Bytes), s.rxFlight = some (.split (c ++ r)) → r.length = 8 →
    exec .rxSplit s = .next { s with rxFlight := some (.tagCompute c r) }) ∧
  (∀ (s : State) (pkt : Bytes), s.rxFlight = some (.split pkt) → pkt.length < 8 →
    exec .rxSplit s = .next { s with rxFlight := some .ctrIncShort }) ∧
  (∀ (s : State) (c r : Bytes), s.rxFlight = some (.tagCompute c r) →
    exec .rxTagCompute s =
      .next { s with rxFlight := some (.ctrInc c r ((sha256 (leBytes 8 s.rx.ctr.toNat ++ c ++ s.rx.key.toList)).take 8)) })

/-- 44_rx_decode.md R205, R206, R207: the comparison of all 8 bytes, the decompression, the delivery. The latch is the model's choice: notes/assumptions/4.md. So is that a payload beyond 00_scope.md R6 is delivered where no smaller MAX_INFLATE_BYTES is set: notes/assumptions/24.md. -/
def Obligations.RxCompareDecompressEmitStages : Prop :=
  (∀ (s : State) (c r : Bytes), s.rxFlight = some (.tagCompare c r r) →
    exec .rxTagCompare s = .next { s with rxFlight := some (.decompress c) }) ∧
  (∀ (s : State) (c r x : Bytes), s.rxFlight = some (.tagCompare c r x) → r ≠ x →
    exec .rxTagCompare s =
      .next { s with rx := { s.rx with status := .dead, err := 2#4 }, rxFlight := none,
                     out := s.out ++ [.event (.onError .rx .checksumMismatch), .response ⟨.checksumMismatch, []⟩] }) ∧
  (∀ (s : State) (c payload : Bytes), s.rxFlight = some (.decompress c) → inflate c = some payload →
    (∀ m, s.limits.maxInflate = some m → payload.length ≤ m) →
    exec .rxDecompress s = .next { s with rxFlight := some (.emit payload) }) ∧
  (∀ (s : State) (c : Bytes), s.rxFlight = some (.decompress c) →
    (∀ p, inflate c = some p → ∃ m, s.limits.maxInflate = some m ∧ m < p.length) →
    exec .rxDecompress s =
      .next { s with rx := { s.rx with status := .dead, err := 3#4 }, rxFlight := none,
                     out := s.out ++ [.event (.onError .rx .compressionError), .response ⟨.compressionError, []⟩] }) ∧
  (∀ (s : State) (payload : Bytes), s.rxFlight = some (.emit payload) →
    exec .rxEmit s =
      .next { s with rxFlight := none, out := s.out ++ [.event (.onDecoded payload), .response ⟨.ok, payload⟩] })

/-- The model's choice (notes/assumptions/5.md): a stage that is not the one its datapath is waiting for is answered IllegalCommand, like any byte the host cannot issue (30_encoding.md R66, R76), and changes nothing. -/
def Obligations.StageNotDueAnswersIllegalCommand : Prop :=
  ∀ (i : Instr) (s : State), i.isCommand = false →
    (∀ f, s.txFlight = some f → txDue f ≠ i) → (∀ f, s.rxFlight = some f → rxDue f ≠ i) →
    exec i s = .next { s with out := s.out ++ [.response ⟨.illegalCommand, []⟩] }

/-- 43_tx_encode.md R190, 44_rx_decode.md R201, 10_state.md R20: a whole TX_ENCODE or RX_DECODE is its stages run one after another by the block's own steps, at most six on TX and seven on RX. The latch is the model's choice: notes/assumptions/4.md. -/
def Obligations.CommandIsItsStagesInOrder : Prop :=
  (∀ (s : State) (payload : Bytes), s.tx.status = .ready → admitted s.limits.maxPayload payload →
    ∃ n, n ≤ 6 ∧ Sys2Proof.core.run n { s with txFlight := some (.compress payload) } = exec (.txEncode payload) s) ∧
  (∀ (s : State) (wire : Bytes), s.txFlight = none → s.rx.status = .ready → admitted s.limits.maxWire wire →
    ∃ n, n ≤ 7 ∧ Sys2Proof.core.run n { s with rxFlight := some (.cipherDecrypt wire) } = exec (.rxDecode wire) s)

/-! ## The counter monitor and the read-out -/

/-- 45_counter_monitor_and_control.md R227, R228: the read-out of the counters, eight bytes, least significant first; zero bytes while the direction is UNCONFIGURED in a state that meets the invariant. -/
def Obligations.ReadCountersResult : Prop :=
  ∀ s : State,
    (∃ data, exec .rdSendCtr s = .next { s with out := s.out ++ [.response ⟨.ok, data⟩] } ∧
      data.length = 8 ∧ fromLE data = s.tx.ctr.toNat ∧
      (s.Inv → s.tx.status = .unconfigured → data = List.replicate 8 0#8) ∧
      ∀ k < 8, (data.getD k 0#8).toNat = s.tx.ctr.toNat / 256 ^ k % 256) ∧
    (∃ data, exec .rdRecvCtr s = .next { s with out := s.out ++ [.response ⟨.ok, data⟩] } ∧
      data.length = 8 ∧ fromLE data = s.rx.ctr.toNat ∧
      (s.Inv → s.rx.status = .unconfigured → data = List.replicate 8 0#8) ∧
      ∀ k < 8, (data.getD k 0#8).toNat = s.rx.ctr.toNat / 256 ^ k % 256)

/-- 45_counter_monitor_and_control.md R229, R230, R231: the three status bytes as sums, and the values that the two direction bytes can have in a state that meets the invariant. -/
def Obligations.ReadStatusResult : Prop :=
  ∀ s : State,
    (∃ b : Byte, exec .rdTxStatus s = .next { s with out := s.out ++ [.response ⟨.ok, [b]⟩] } ∧
      b.toNat = s.tx.status.bits.toNat + 16 * s.tx.err.toNat ∧
      (s.Inv → b ∈ [0x00#8, 0x01#8, 0x42#8, 0x62#8])) ∧
    (∃ b : Byte, exec .rdRxStatus s = .next { s with out := s.out ++ [.response ⟨.ok, [b]⟩] } ∧
      b.toNat = s.rx.status.bits.toNat + 16 * s.rx.err.toNat ∧
      (s.Inv → b ∈ [0x00#8, 0x01#8, 0x22#8, 0x32#8, 0x42#8, 0x52#8, 0x62#8])) ∧
    (∃ b : Byte, exec .rdMonStatus s = .next { s with out := s.out ++ [.response ⟨.ok, [b]⟩] } ∧
      b.toNat = (if s.tx.status = .ready then 1 else 0) + (if s.rx.status = .ready then 2 else 0) +
        (if s.rx.err = 2#4 then 4 else 0) + (if s.tx.err = 6#4 then 8 else 0) + (if s.rx.err = 6#4 then 16 else 0))

/-- 45_counter_monitor_and_control.md R220, R224, 10_state.md R25 (d): a command other than *_INIT, *_CLOSE and RESET leaves a direction's counter or adds one, never past 2^64 - 1; while the direction stays READY it adds one exactly for its TX_ENCODE or RX_DECODE. -/
def Obligations.CounterMovesByAtMostOne : Prop :=
  ∀ (i : Instr) (s t : State) (d : Side), i.isCommand = true → exec i s = .next t → ¬ closes d i → ¬ configures d i →
    ((t.dir d).ctr.toNat = (s.dir d).ctr.toNat ∨ (t.dir d).ctr.toNat = (s.dir d).ctr.toNat + 1) ∧
    ((s.dir d).status = .ready → (t.dir d).status = .ready →
      (t.dir d).ctr.toNat = (s.dir d).ctr.toNat +
        (match d, i with
          | .tx, .txEncode _ => 1
          | .rx, .rxDecode _ => 1
          | _, _ => 0))

/-! ## Life of a direction, independence, secrecy -/

/-- 10_state.md R15: the only transitions of a status: to READY by a successful *_INIT, from READY to DEAD, to UNCONFIGURED by *_CLOSE or RESET. -/
def Obligations.StatusTransitions : Prop :=
  ∀ (i : Instr) (s t : State) (d : Side), i.isCommand = true → exec i s = .next t → (t.dir d).status ≠ (s.dir d).status →
    ((s.dir d).status = .unconfigured ∧ (t.dir d).status = .ready ∧ configures d i) ∨
    ((s.dir d).status = .ready ∧ (t.dir d).status = .dead ∧ ∃ c, .event (.onError d c) ∈ newOutputs s t) ∨
    ((t.dir d).status = .unconfigured ∧ closes d i)

/-- 60_exceptions.md R260, R261: there is no return from a fatal error: until *_CLOSE or RESET, no command changes anything in the record of a DEAD direction. -/
def Obligations.DeadUntilClosed : Prop :=
  ∀ (i : Instr) (s t : State) (d : Side), i.isCommand = true → (s.dir d).status = .dead → exec i s = .next t →
    ¬ closes d i → t.dir d = s.dir d

/-- 10_state.md R11: the key never changes while the direction is READY or DEAD, by any instruction but the closing ones. -/
def Obligations.KeyFixedWhileConfigured : Prop :=
  ∀ (i : Instr) (s t : State) (d : Side), (s.dir d).status ≠ .unconfigured → exec i s = .next t →
    ¬ closes d i → (t.dir d).key = (s.dir d).key

/-- 10_state.md R10, 40_stream_cipher.md R96: an instruction of one direction leaves the other's record, latch, environment and events as they were, and both leave the port and the bounds. The latches and the environment's list of answers are the model's choice: notes/assumptions/4.md, 8.md. -/
def Obligations.DirectionsIndependent : Prop :=
  (∀ (i : Instr) (s t : State), ofTx i = true → exec i s = .next t →
    t.rx = s.rx ∧ t.rxFlight = s.rxFlight ∧ t.rxEnv = s.rxEnv ∧ t.port = s.port ∧ t.limits = s.limits ∧
      t.traceOf .rx = s.traceOf .rx) ∧
  (∀ (i : Instr) (s t : State), ofRx i = true → exec i s = .next t →
    t.tx = s.tx ∧ t.txFlight = s.txFlight ∧ t.txEnv = s.txEnv ∧ t.port = s.port ∧ t.limits = s.limits ∧
      t.traceOf .tx = s.traceOf .tx)

/-- 10_state.md R10, 40_stream_cipher.md R96: what a TX instruction does and answers does not depend on anything of RX, and the other way round. The latches and the environment's list of answers are the model's choice: notes/assumptions/4.md, 8.md. -/
def Obligations.OneDirectionBlindToTheOther : Prop :=
  (∀ (i : Instr) (s s' t : State), ofTx i = true → s'.tx = s.tx → s'.txFlight = s.txFlight → s'.txEnv = s.txEnv →
    s'.limits = s.limits → exec i s = .next t →
    ∃ t', exec i s' = .next t' ∧ t'.tx = t.tx ∧ t'.txFlight = t.txFlight ∧ t'.txEnv = t.txEnv ∧
      newOutputs s' t' = newOutputs s t) ∧
  (∀ (i : Instr) (s s' t : State), ofRx i = true → s'.rx = s.rx → s'.rxFlight = s.rxFlight → s'.rxEnv = s.rxEnv →
    s'.limits = s.limits → exec i s = .next t →
    ∃ t', exec i s' = .next t' ∧ t'.rx = t.rx ∧ t'.rxFlight = t.rxFlight ∧ t'.rxEnv = t.rxEnv ∧
      newOutputs s' t' = newOutputs s t)

/-- 20_memory.md R49 (b): a TX instruction and an RX instruction commute: either order gives the same state, each gives the same outputs. Of the order between the two directions' outputs nothing is said (60_exceptions.md R259). The latches and the environment's list of answers are the model's choice: notes/assumptions/4.md, 8.md. -/
def Obligations.CommandsCommute : Prop :=
  ∀ (i j : Instr) (s a b : State), ofTx i = true → ofRx j = true → exec i s = .next a → exec j a = .next b →
    ∃ c d, exec j s = .next c ∧ exec i c = .next d ∧ { d with out := b.out } = b ∧
      newOutputs c d = newOutputs s a ∧ newOutputs s c = newOutputs a b ∧
      d.traceOf .tx = b.traceOf .tx ∧ d.traceOf .rx = b.traceOf .rx

/-- 60_exceptions.md R264: no command but TX_ENCODE and RX_DECODE answers anything that depends on a key or a shift register. -/
def Obligations.KeysNeverAnswered : Prop :=
  ∀ (i : Instr) (s t : State) (k1 k2 : Key) (v1 v2 : Block), i.isCommand = true →
    (∀ p, i ≠ .txEncode p) → (∀ w, i ≠ .rxDecode w) → exec i s = .next t →
    ∃ t', exec i { s with tx := { s.tx with key := k1, shift := v1 }, rx := { s.rx with key := k2, shift := v2 } } = .next t' ∧
      t'.out = t.out

/-! ## The functions behind the stages -/

/-- 40_stream_cipher.md R97: encryption and decryption undo each other and leave the same shift register, for any block cipher. -/
def Obligations.CfbInversion : Prop :=
  ∀ (E : Key → Block → Block) (key : Key) (s s' : Block) (p c : Bytes),
    cfb8Enc E key s p = (c, s') ↔ cfb8Dec E key s c = (p, s')

/-- 40_stream_cipher.md R94, R95: chunk boundaries do not matter, and the output has the input's length. -/
def Obligations.CfbChunksAndLength : Prop :=
  (∀ (E : Key → Block → Block) (key : Key) (s s1 s2 : Block) (a b x y : Bytes),
    cfb8Enc E key s a = (x, s1) → cfb8Enc E key s1 b = (y, s2) → cfb8Enc E key s (a ++ b) = (x ++ y, s2)) ∧
  (∀ (E : Key → Block → Block) (key : Key) (s s1 s2 : Block) (a b x y : Bytes),
    cfb8Dec E key s a = (x, s1) → cfb8Dec E key s1 b = (y, s2) → cfb8Dec E key s (a ++ b) = (x ++ y, s2)) ∧
  (∀ (E : Key → Block → Block) (key : Key) (s : Block) (p : Bytes),
    (cfb8Enc E key s p).1.length = p.length ∧ (cfb8Dec E key s p).1.length = p.length)

/-- 10_state.md R25 (e), 44_rx_decode.md R210: the shift register is afterwards the last 16 bytes of what it held followed by the ciphertext, in both directions. -/
def Obligations.ShiftHoldsLastSixteen : Prop :=
  ∀ (E : Key → Block → Block) (key : Key) (s : Block) (p : Bytes),
    (cfb8Enc E key s p).2 = lastSixteen (s.toList ++ (cfb8Enc E key s p).1) ∧
    (cfb8Dec E key s p).2 = lastSixteen (s.toList ++ p)

/-- 40_stream_cipher.md R98: a ciphertext wrong in byte i alone decrypts wrong in byte i by the same difference and is right before it and again from byte i + 17 on. -/
def Obligations.CfbErrorExtent : Prop :=
  ∀ (E : Key → Block → Block) (key : Key) (s : Block) (a b : Bytes) (x y : Byte) (k : Nat),
    let p := (cfb8Dec E key s (a ++ x :: b)).1
    let q := (cfb8Dec E key s (a ++ y :: b)).1
    (k < a.length → q[k]? = p[k]?) ∧
    q[a.length]? = p[a.length]?.map (fun z => z ^^^ (x ^^^ y)) ∧
    (a.length + 17 ≤ k → q[k]? = p[k]?)

/-- 41_sequence_checksum.md R121, R122, R123: the tag is 8 bytes, over a preimage of the counter's 8 bytes, the string and the key, with different counters giving different preimages. -/
def Obligations.TagLayout : Prop :=
  ∀ (c : Bytes) (ctr ctr' : Ctr) (key : Key),
    tag c ctr key = (sha256 (tagPreimage c ctr key)).take 8 ∧ (tag c ctr key).length = 8 ∧
    (tagPreimage c ctr key).length = c.length + 40 ∧
    fromLE ((tagPreimage c ctr key).take 8) = ctr.toNat ∧
    ((tagPreimage c ctr key).drop 8).take c.length = c ∧ (tagPreimage c ctr key).drop (8 + c.length) = key.toList ∧
    (tagPreimage c ctr key = tagPreimage c ctr' key → ctr = ctr')

/-- 40_stream_cipher.md R101, R102: the substitution table is the affine map of the inverse in GF(2^8). -/
def Obligations.SboxIsAffineOfInverse : Prop :=
  sbox 0#8 = affine 0#8 ∧
  ∀ a : Byte, a ≠ 0#8 → ∃ b : Byte, gfMul 8 a b = 1#8 ∧ sbox a = affine b

/-- 42_compression.md R143: the reference compressor obeys law L2, and has the stated length. -/
def Obligations.StoredCompressionInflates : Prop :=
  ∀ p : Bytes, inflate (compressStored p) = some p ∧
    (compressStored p).length = p.length + 5 * max 1 ((p.length + 65534) / 65535)

/-- 42_compression.md R141, whatever the implementation's compressor emits: law L2, hence injective and never empty. How the model keeps the compressor open is its choice: notes/assumptions/7.md. -/
def Obligations.CompressObeysItsLaw : Prop :=
  (∀ p : Bytes, inflate (compress p) = some p ∧ compress p ≠ []) ∧
  (∀ p q : Bytes, compress p = compress q → p = q)

/-- 42_compression.md R160: the output of Inflate is bounded by its input; the empty string is no stream. -/
def Obligations.InflateOutputBounded : Prop :=
  inflate [] = none ∧ ∀ z p : Bytes, inflate z = some p → p.length < 1032 * z.length + 258

/-- 42_compression.md R158, R144: whole bytes after the final block are an error, and so is every stream cut short. -/
def Obligations.TrailingOrMissingBytesRejected : Prop :=
  ∀ z p : Bytes, inflate z = some p →
    (∀ x : Bytes, x ≠ [] → inflate (z ++ x) = none) ∧ (∀ k, k < z.length → inflate (z.take k) = none)

/-! ## Two peers -/

/-- 44_rx_decode.md R211: one block encodes, another decodes in the same order, from the same key and IV and without cipher faults: the payloads come back, both counters are the number of packets, both shift registers agree. Payloads are under 2^60 bytes so that their packets stay within 00_scope.md R6. The environment's list of answers is the model's choice: notes/assumptions/8.md. -/
def Obligations.RoundTrip : Prop :=
  ∀ (a b : State) (key iv : Bytes) (payloads : List Bytes),
    a.tx.status = .unconfigured → b.rx.status = .unconfigured → key.length = 32 → iv.length = 16 →
    a.txEnv.faults = [] → b.rxEnv.faults = [] → a.limits.maxPayload = none → b.limits = Limits.reset →
    (∀ p ∈ payloads, p.length < 2 ^ 60) → payloads.length < 2 ^ 64 →
    ∃ a0 b0 wires a1 b1,
      exec (.txInit key iv) a = .next a0 ∧ exec (.rxInit key iv) b = .next b0 ∧
      sendAll .txEncode a0 payloads = some (wires, a1) ∧ sendAll .rxDecode b0 wires = some (payloads, b1) ∧
      a1.tx.ctr.toNat = payloads.length ∧ b1.rx.ctr.toNat = payloads.length ∧
      a1.tx.shift = b1.rx.shift ∧ a1.tx.status = .ready ∧ b1.rx.status = .ready

/-- 44_rx_decode.md R213 (a): a packet that verifies, altered in its last 8 bytes only, ends in ChecksumMismatch with certainty. The environment's list of answers is the model's choice: notes/assumptions/8.md. -/
def Obligations.AlteredTagAlwaysMismatches : Prop :=
  ∀ (s : State) (body good bad pkt : Bytes),
    s.rx.status = .ready → admitted s.limits.maxWire (body ++ bad) → s.rx.ctr ≠ BitVec.allOnes 64 →
    s.rxEnv.faults.headD false = false → good.length = 8 → bad.length = 8 → bad ≠ good →
    pkt = (decryptBytes s.rx.key s.rx.shift (body ++ good)).1 →
    pkt.drop body.length = tag (pkt.take body.length) s.rx.ctr s.rx.key →
    ∃ t, exec (.rxDecode (body ++ bad)) s = .next t ∧ t.rx.status = .dead ∧ t.rx.err = 2#4 ∧
      newOutputs s t = [.event (.onError .rx .checksumMismatch), .response ⟨.checksumMismatch, []⟩]
end

