-- ==== Sys2Proof/Laws/Cipher.lean ====
section
/-! SUPPORT. Small lemmas about the stream cipher, the tag's parts and the fixed-length blocks. -/

namespace Sys2Proof.Machine

@[simp] theorem shiftIn_toList (s : Block) (c : Byte) : (shiftIn s c).toList = s.toList.drop 1 ++ [c] := by
  simp [shiftIn, Vector.toList]

theorem Block.ofBytes_toList (b : Bytes) (h : b.length = 16) : (Block.ofBytes b).toList = b := by
  simp [Block.ofBytes, Vector.toList, h]

@[simp] theorem cfb8Enc_nil (E : Key → Block → Block) (key : Key) (s : Block) : cfb8Enc E key s [] = ([], s) := rfl

@[simp] theorem cfb8Dec_nil (E : Key → Block → Block) (key : Key) (s : Block) : cfb8Dec E key s [] = ([], s) := rfl

theorem cfb8Enc_cons (E : Key → Block → Block) (key : Key) (s : Block) (x : Byte) (xs : Bytes) :
    cfb8Enc E key s (x :: xs) =
      ((x ^^^ keystream E key s) :: (cfb8Enc E key (shiftIn s (x ^^^ keystream E key s)) xs).1,
        (cfb8Enc E key (shiftIn s (x ^^^ keystream E key s)) xs).2) := rfl

theorem cfb8Dec_cons (E : Key → Block → Block) (key : Key) (s : Block) (c : Byte) (cs : Bytes) :
    cfb8Dec E key s (c :: cs) =
      ((c ^^^ keystream E key s) :: (cfb8Dec E key (shiftIn s c) cs).1, (cfb8Dec E key (shiftIn s c) cs).2) := rfl

@[simp] theorem leBytes_length (n v : Nat) : (leBytes n v).length = n := by
  induction n generalizing v with
  | zero => rfl
  | succ n ih => simp [leBytes, ih]

/-- Reading back what `leBytes` wrote, where it fits. -/
theorem fromLE_leBytes (n v : Nat) (h : v < 256 ^ n) : fromLE (leBytes n v) = v := by
  induction n generalizing v with
  | zero => simp at h; simp [leBytes, fromLE, h]
  | succ n ih =>
    have hv : v / 256 < 256 ^ n := by
      rw [Nat.div_lt_iff_lt_mul (by norm_num)]
      rw [pow_succ] at h
      exact h
    simp only [leBytes, fromLE, ih _ hv, BitVec.toNat_ofNat]
    omega

@[simp] theorem be32_length (w : Word32) : (be32 w).length = 4 := rfl

@[simp] theorem be64_length (n : Nat) : (be64 n).length = 8 := rfl

@[simp] theorem ShaWords_bytes_length (h : ShaWords) : h.bytes.length = 32 := by simp [ShaWords.bytes]

end Sys2Proof.Machine
end

