-- ==== Sys2Proof/Laws/State.lean ====
section
/-! SUPPORT. One lemma per field per update of the state record, so that no proof unfolds an update. -/

namespace Sys2Proof.Machine

@[simp] theorem setDir_tx_tx (s : State) (x : Dir) : (s.setDir .tx x).tx = x := rfl
@[simp] theorem setDir_tx_rx (s : State) (x : Dir) : (s.setDir .tx x).rx = s.rx := rfl
@[simp] theorem setDir_tx_out (s : State) (x : Dir) : (s.setDir .tx x).out = s.out := rfl
@[simp] theorem setDir_tx_txFlight (s : State) (x : Dir) : (s.setDir .tx x).txFlight = s.txFlight := rfl
@[simp] theorem setDir_tx_rxFlight (s : State) (x : Dir) : (s.setDir .tx x).rxFlight = s.rxFlight := rfl
@[simp] theorem setDir_tx_port (s : State) (x : Dir) : (s.setDir .tx x).port = s.port := rfl
@[simp] theorem setDir_tx_txEnv (s : State) (x : Dir) : (s.setDir .tx x).txEnv = s.txEnv := rfl
@[simp] theorem setDir_tx_rxEnv (s : State) (x : Dir) : (s.setDir .tx x).rxEnv = s.rxEnv := rfl
@[simp] theorem setDir_tx_limits (s : State) (x : Dir) : (s.setDir .tx x).limits = s.limits := rfl
@[simp] theorem setDir_rx_tx (s : State) (x : Dir) : (s.setDir .rx x).tx = s.tx := rfl
@[simp] theorem setDir_rx_rx (s : State) (x : Dir) : (s.setDir .rx x).rx = x := rfl
@[simp] theorem setDir_rx_out (s : State) (x : Dir) : (s.setDir .rx x).out = s.out := rfl
@[simp] theorem setDir_rx_txFlight (s : State) (x : Dir) : (s.setDir .rx x).txFlight = s.txFlight := rfl
@[simp] theorem setDir_rx_rxFlight (s : State) (x : Dir) : (s.setDir .rx x).rxFlight = s.rxFlight := rfl
@[simp] theorem setDir_rx_port (s : State) (x : Dir) : (s.setDir .rx x).port = s.port := rfl
@[simp] theorem setDir_rx_txEnv (s : State) (x : Dir) : (s.setDir .rx x).txEnv = s.txEnv := rfl
@[simp] theorem setDir_rx_rxEnv (s : State) (x : Dir) : (s.setDir .rx x).rxEnv = s.rxEnv := rfl
@[simp] theorem setDir_rx_limits (s : State) (x : Dir) : (s.setDir .rx x).limits = s.limits := rfl
@[simp] theorem setEnv_tx_tx (s : State) (e : Env) : (s.setEnv .tx e).tx = s.tx := rfl
@[simp] theorem setEnv_tx_rx (s : State) (e : Env) : (s.setEnv .tx e).rx = s.rx := rfl
@[simp] theorem setEnv_tx_out (s : State) (e : Env) : (s.setEnv .tx e).out = s.out := rfl
@[simp] theorem setEnv_tx_txFlight (s : State) (e : Env) : (s.setEnv .tx e).txFlight = s.txFlight := rfl
@[simp] theorem setEnv_tx_rxFlight (s : State) (e : Env) : (s.setEnv .tx e).rxFlight = s.rxFlight := rfl
@[simp] theorem setEnv_tx_port (s : State) (e : Env) : (s.setEnv .tx e).port = s.port := rfl
@[simp] theorem setEnv_tx_txEnv (s : State) (e : Env) : (s.setEnv .tx e).txEnv = e := rfl
@[simp] theorem setEnv_tx_rxEnv (s : State) (e : Env) : (s.setEnv .tx e).rxEnv = s.rxEnv := rfl
@[simp] theorem setEnv_tx_limits (s : State) (e : Env) : (s.setEnv .tx e).limits = s.limits := rfl
@[simp] theorem setEnv_rx_tx (s : State) (e : Env) : (s.setEnv .rx e).tx = s.tx := rfl
@[simp] theorem setEnv_rx_rx (s : State) (e : Env) : (s.setEnv .rx e).rx = s.rx := rfl
@[simp] theorem setEnv_rx_out (s : State) (e : Env) : (s.setEnv .rx e).out = s.out := rfl
@[simp] theorem setEnv_rx_txFlight (s : State) (e : Env) : (s.setEnv .rx e).txFlight = s.txFlight := rfl
@[simp] theorem setEnv_rx_rxFlight (s : State) (e : Env) : (s.setEnv .rx e).rxFlight = s.rxFlight := rfl
@[simp] theorem setEnv_rx_port (s : State) (e : Env) : (s.setEnv .rx e).port = s.port := rfl
@[simp] theorem setEnv_rx_txEnv (s : State) (e : Env) : (s.setEnv .rx e).txEnv = s.txEnv := rfl
@[simp] theorem setEnv_rx_rxEnv (s : State) (e : Env) : (s.setEnv .rx e).rxEnv = e := rfl
@[simp] theorem setEnv_rx_limits (s : State) (e : Env) : (s.setEnv .rx e).limits = s.limits := rfl
@[simp] theorem dropFlight_tx_tx (s : State) : (s.dropFlight .tx).tx = s.tx := rfl
@[simp] theorem dropFlight_tx_rx (s : State) : (s.dropFlight .tx).rx = s.rx := rfl
@[simp] theorem dropFlight_tx_out (s : State) : (s.dropFlight .tx).out = s.out := rfl
@[simp] theorem dropFlight_tx_txFlight (s : State) : (s.dropFlight .tx).txFlight = none := rfl
@[simp] theorem dropFlight_tx_rxFlight (s : State) : (s.dropFlight .tx).rxFlight = s.rxFlight := rfl
@[simp] theorem dropFlight_tx_port (s : State) : (s.dropFlight .tx).port = s.port := rfl
@[simp] theorem dropFlight_tx_txEnv (s : State) : (s.dropFlight .tx).txEnv = s.txEnv := rfl
@[simp] theorem dropFlight_tx_rxEnv (s : State) : (s.dropFlight .tx).rxEnv = s.rxEnv := rfl
@[simp] theorem dropFlight_tx_limits (s : State) : (s.dropFlight .tx).limits = s.limits := rfl
@[simp] theorem dropFlight_rx_tx (s : State) : (s.dropFlight .rx).tx = s.tx := rfl
@[simp] theorem dropFlight_rx_rx (s : State) : (s.dropFlight .rx).rx = s.rx := rfl
@[simp] theorem dropFlight_rx_out (s : State) : (s.dropFlight .rx).out = s.out := rfl
@[simp] theorem dropFlight_rx_txFlight (s : State) : (s.dropFlight .rx).txFlight = s.txFlight := rfl
@[simp] theorem dropFlight_rx_rxFlight (s : State) : (s.dropFlight .rx).rxFlight = none := rfl
@[simp] theorem dropFlight_rx_port (s : State) : (s.dropFlight .rx).port = s.port := rfl
@[simp] theorem dropFlight_rx_txEnv (s : State) : (s.dropFlight .rx).txEnv = s.txEnv := rfl
@[simp] theorem dropFlight_rx_rxEnv (s : State) : (s.dropFlight .rx).rxEnv = s.rxEnv := rfl
@[simp] theorem dropFlight_rx_limits (s : State) : (s.dropFlight .rx).limits = s.limits := rfl
@[simp] theorem emit_tx (s : State) (e : Event) : (s.emit e).tx = s.tx := rfl
@[simp] theorem emit_rx (s : State) (e : Event) : (s.emit e).rx = s.rx := rfl
@[simp] theorem emit_out (s : State) (e : Event) : (s.emit e).out = s.out ++ [.event e] := rfl
@[simp] theorem emit_txFlight (s : State) (e : Event) : (s.emit e).txFlight = s.txFlight := rfl
@[simp] theorem emit_rxFlight (s : State) (e : Event) : (s.emit e).rxFlight = s.rxFlight := rfl
@[simp] theorem emit_port (s : State) (e : Event) : (s.emit e).port = s.port := rfl
@[simp] theorem emit_txEnv (s : State) (e : Event) : (s.emit e).txEnv = s.txEnv := rfl
@[simp] theorem emit_rxEnv (s : State) (e : Event) : (s.emit e).rxEnv = s.rxEnv := rfl
@[simp] theorem emit_limits (s : State) (e : Event) : (s.emit e).limits = s.limits := rfl
@[simp] theorem respond_tx (s : State) (c : Code) (data : Bytes) : (s.respond c data).tx = s.tx := rfl
@[simp] theorem respond_rx (s : State) (c : Code) (data : Bytes) : (s.respond c data).rx = s.rx := rfl
@[simp] theorem respond_out (s : State) (c : Code) (data : Bytes) : (s.respond c data).out = s.out ++ [.response ⟨c, data⟩] := rfl
@[simp] theorem respond_txFlight (s : State) (c : Code) (data : Bytes) : (s.respond c data).txFlight = s.txFlight := rfl
@[simp] theorem respond_rxFlight (s : State) (c : Code) (data : Bytes) : (s.respond c data).rxFlight = s.rxFlight := rfl
@[simp] theorem respond_port (s : State) (c : Code) (data : Bytes) : (s.respond c data).port = s.port := rfl
@[simp] theorem respond_txEnv (s : State) (c : Code) (data : Bytes) : (s.respond c data).txEnv = s.txEnv := rfl
@[simp] theorem respond_rxEnv (s : State) (c : Code) (data : Bytes) : (s.respond c data).rxEnv = s.rxEnv := rfl
@[simp] theorem respond_limits (s : State) (c : Code) (data : Bytes) : (s.respond c data).limits = s.limits := rfl
@[simp] theorem dir_tx (s : State) : s.dir .tx = s.tx := rfl
@[simp] theorem env_tx (s : State) : s.env .tx = s.txEnv := rfl
@[simp] theorem dir_rx (s : State) : s.dir .rx = s.rx := rfl
@[simp] theorem env_rx (s : State) : s.env .rx = s.rxEnv := rfl
@[simp] theorem reset_tx : State.reset.tx = Dir.reset := rfl
@[simp] theorem reset_rx : State.reset.rx = Dir.reset := rfl
@[simp] theorem reset_out : State.reset.out = [] := rfl
@[simp] theorem reset_txFlight : State.reset.txFlight = none := rfl
@[simp] theorem reset_rxFlight : State.reset.rxFlight = none := rfl
@[simp] theorem reset_port : State.reset.port = [] := rfl
@[simp] theorem reset_txEnv : State.reset.txEnv = Env.reset := rfl
@[simp] theorem reset_rxEnv : State.reset.rxEnv = Env.reset := rfl
@[simp] theorem reset_limits : State.reset.limits = Limits.reset := rfl
@[simp] theorem powerOnReset_tx (s : State) : (powerOnReset s).tx = Dir.reset := rfl
@[simp] theorem powerOnReset_rx (s : State) : (powerOnReset s).rx = Dir.reset := rfl
@[simp] theorem powerOnReset_out (s : State) : (powerOnReset s).out = [] := rfl
@[simp] theorem powerOnReset_txFlight (s : State) : (powerOnReset s).txFlight = none := rfl
@[simp] theorem powerOnReset_rxFlight (s : State) : (powerOnReset s).rxFlight = none := rfl
@[simp] theorem powerOnReset_port (s : State) : (powerOnReset s).port = s.port := rfl
@[simp] theorem powerOnReset_txEnv (s : State) : (powerOnReset s).txEnv = s.txEnv := rfl
@[simp] theorem powerOnReset_rxEnv (s : State) : (powerOnReset s).rxEnv = s.rxEnv := rfl
@[simp] theorem powerOnReset_limits (s : State) : (powerOnReset s).limits = s.limits := rfl

@[simp] theorem setDir_dir_same (s : State) (d : Side) (x : Dir) : (s.setDir d x).dir d = x := by cases d <;> rfl
@[simp] theorem setEnv_env_same (s : State) (d : Side) (e : Env) : (s.setEnv d e).env d = e := by cases d <;> rfl
@[simp] theorem setEnv_dir (s : State) (d d' : Side) (e : Env) : (s.setEnv d e).dir d' = s.dir d' := by cases d <;> cases d' <;> rfl
@[simp] theorem setDir_env (s : State) (d d' : Side) (x : Dir) : (s.setDir d x).env d' = s.env d' := by cases d <;> cases d' <;> rfl
@[simp] theorem emit_dir (s : State) (d : Side) (e : Event) : (s.emit e).dir d = s.dir d := by cases d <;> rfl
@[simp] theorem respond_dir (s : State) (d : Side) (c : Code) (b : Bytes) : (s.respond c b).dir d = s.dir d := by cases d <;> rfl
@[simp] theorem dropFlight_dir (s : State) (d d' : Side) : (s.dropFlight d).dir d' = s.dir d' := by cases d <;> cases d' <;> rfl

end Sys2Proof.Machine
end

