-- ==== Sys2Proof/Laws/Ops.lean ====
section
/-! SUPPORT. One lemma per shared operation that says all it does; the provers cite these and unfold nothing. -/

namespace Sys2Proof.Machine

/-! Shared operations, for each direction the whole next state. -/

theorem reject_eq (c : Code) (s : State) : reject c s = { s with out := s.out ++ [.response ⟨c, []⟩] } := rfl

theorem stageNotDue_eq (s : State) : stageNotDue s = { s with out := s.out ++ [.response ⟨.illegalCommand, []⟩] } := rfl

theorem illegalCommand_eq (s : State) :
    illegalCommand s = { s with out := s.out ++ [.response ⟨.illegalCommand, []⟩] } := rfl

theorem answerResetInput_eq (s : State) :
    answerResetInput s =
      { State.reset with out := [.response ⟨.ok, []⟩], port := s.port, txEnv := s.txEnv, rxEnv := s.rxEnv, limits := s.limits } := rfl

/-- R290 (a): no event is left in the trace. -/
@[simp] theorem answerResetInput_trace (s : State) : (answerResetInput s).trace = [] := rfl

theorem raiseFatal_tx (c : Code) (s : State) :
    raiseFatal .tx c s =
      { s with tx := { s.tx with status := .dead, err := c.nibble }, txFlight := none,
               out := s.out ++ [.event (.onError .tx c), .response ⟨c, []⟩] } := by
  simp [raiseFatal, State.setDir, State.dropFlight, State.emit, State.respond]

theorem raiseFatal_rx (c : Code) (s : State) :
    raiseFatal .rx c s =
      { s with rx := { s.rx with status := .dead, err := c.nibble }, rxFlight := none,
               out := s.out ++ [.event (.onError .rx c), .response ⟨c, []⟩] } := by
  simp [raiseFatal, State.setDir, State.dropFlight, State.emit, State.respond]

theorem closeDir_tx (s : State) : closeDir .tx s = { s with tx := Dir.reset, txFlight := none } := rfl

theorem closeDir_rx (s : State) : closeDir .rx s = { s with rx := Dir.reset, rxFlight := none } := rfl

theorem incCtr_tx_max (s : State) (h : s.tx.ctr = Ctr.max) : incCtr .tx s = none := by simp [incCtr, h]

theorem incCtr_rx_max (s : State) (h : s.rx.ctr = Ctr.max) : incCtr .rx s = none := by simp [incCtr, h]

theorem incCtr_tx_next (s : State) (h : s.tx.ctr ≠ Ctr.max) :
    incCtr .tx s = some { s with tx := { s.tx with ctr := s.tx.ctr + 1#64 } } := by
  simp [incCtr, h, State.setDir]

theorem incCtr_rx_next (s : State) (h : s.rx.ctr ≠ Ctr.max) :
    incCtr .rx s = some { s with rx := { s.rx with ctr := s.rx.ctr + 1#64 } } := by
  simp [incCtr, h, State.setDir]

/-- Below `2^64 - 1` the 64-bit sum is the sum of the numbers. -/
theorem ctr_succ_toNat (c : Ctr) (h : c ≠ Ctr.max) : (c + 1#64).toNat = c.toNat + 1 := by
  have hne : c.toNat ≠ 2 ^ 64 - 1 := fun hc => h (BitVec.eq_of_toNat_eq (by simp [Ctr.max, hc]))
  have hlt := c.isLt
  simp only [BitVec.toNat_add, BitVec.toNat_ofNat]
  omega

theorem raiseCipherError_tx (s : State) :
    raiseCipherError .tx s =
      { s with tx := { s.tx with status := .dead, err := 4#4, shift := Config.freeShift true s.txEnv.draws },
               txEnv := { s.txEnv with draws := s.txEnv.draws + 1 }, txFlight := none,
               out := s.out ++ [.event (.onError .tx .cipherError), .response ⟨.cipherError, []⟩] } := by
  simp [raiseCipherError, raiseFatal_tx, State.setDir, State.setEnv, Side.isTx, Code.nibble, Code.toByte]

theorem raiseCipherError_rx (s : State) :
    raiseCipherError .rx s =
      { s with rx := { s.rx with status := .dead, err := 4#4, shift := Config.freeShift false s.rxEnv.draws },
               rxEnv := { s.rxEnv with draws := s.rxEnv.draws + 1 }, rxFlight := none,
               out := s.out ++ [.event (.onError .rx .cipherError), .response ⟨.cipherError, []⟩] } := by
  simp [raiseCipherError, raiseFatal_rx, State.setDir, State.setEnv, Side.isTx, Code.nibble, Code.toByte]

/-! Operand loading. -/

theorem loadKey_of_length (b : Bytes) (h : b.length = 32) : ∃ k, loadKey b = some k ∧ k.toList = b := by
  refine ⟨⟨b.toArray, by simpa using h⟩, by simp [loadKey, h], by simp [Vector.toList]⟩

theorem loadIv_of_length (b : Bytes) (h : b.length = 16) : ∃ v, loadIv b = some v ∧ v.toList = b := by
  refine ⟨⟨b.toArray, by simpa using h⟩, by simp [loadIv, h], by simp [Vector.toList]⟩

theorem loadKey_none (b : Bytes) (h : b.length ≠ 32) : loadKey b = none := by simp [loadKey, h]

theorem loadIv_none (b : Bytes) (h : b.length ≠ 16) : loadIv b = none := by simp [loadIv, h]

/-- What `initDir` can do: three cases, told apart by the status and the two lengths. -/
theorem initDir_cases (d : Side) (key iv : Bytes) (s : State) :
    ((s.dir d).status ≠ .unconfigured ∧ initDir d key iv s = reject .illegalState s) ∨
    ((s.dir d).status = .unconfigured ∧ (key.length ≠ 32 ∨ iv.length ≠ 16) ∧
      initDir d key iv s = reject .configurationError s) ∨
    ((s.dir d).status = .unconfigured ∧ key.length = 32 ∧ iv.length = 16 ∧
      ∃ k v, k.toList = key ∧ v.toList = iv ∧
        initDir d key iv s =
          (s.setDir d { status := .ready, err := 0#4, key := k, shift := v, ctr := 0#64 }).respond .ok []) := by
  by_cases hs : (s.dir d).status = .unconfigured
  · by_cases hk : key.length = 32
    · by_cases hv : iv.length = 16
      · obtain ⟨k, hk1, hk2⟩ := loadKey_of_length key hk
        obtain ⟨v, hv1, hv2⟩ := loadIv_of_length iv hv
        exact .inr (.inr ⟨hs, hk, hv, k, v, hk2, hv2, by simp [initDir, hs, hk1, hv1]⟩)
      · refine .inr (.inl ⟨hs, .inr hv, ?_⟩)
        simp only [initDir, hs, loadIv_none iv hv]
        cases loadKey key <;> simp
    · exact .inr (.inl ⟨hs, .inl hk, by simp [initDir, hs, loadKey_none key hk]⟩)
  · exact .inl ⟨hs, by simp [initDir, hs]⟩

/-! The stages, each on the latch it is due for. -/

theorem execTxCompress_due (s : State) (payload : Bytes) (h : s.txFlight = some (.compress payload)) :
    execTxCompress s = .next { s with txFlight := some (.tagCompute (compress payload)) } := by
  simp [execTxCompress, h]

theorem execTxTagCompute_due (s : State) (c : Bytes) (h : s.txFlight = some (.tagCompute c)) :
    execTxTagCompute s = .next { s with txFlight := some (.tagAppend c (tag c s.tx.ctr s.tx.key)) } := by
  simp [execTxTagCompute, h]

theorem execTxTagAppend_due (s : State) (c t : Bytes) (h : s.txFlight = some (.tagAppend c t)) :
    execTxTagAppend s = .next { s with txFlight := some (.ctrInc (c ++ t)) } := by
  simp [execTxTagAppend, h]

theorem execTxCtrInc_due (s : State) (pkt : Bytes) (h : s.txFlight = some (.ctrInc pkt)) :
    execTxCtrInc s =
      if s.tx.ctr = Ctr.max then .next (raiseFatal .tx .counterOverflow s)
      else .next { s with tx := { s.tx with ctr := s.tx.ctr + 1#64 }, txFlight := some (.cipherEncrypt pkt) } := by
  by_cases hc : s.tx.ctr = Ctr.max
  · simp [execTxCtrInc, h, incCtr_tx_max s hc, hc]
  · simp [execTxCtrInc, h, incCtr_tx_next s hc, hc]

theorem execTxCipherEncrypt_due (s : State) (pkt : Bytes) (h : s.txFlight = some (.cipherEncrypt pkt)) :
    execTxCipherEncrypt s =
      if cipherFault .tx s then .next (raiseCipherError .tx (consumeFault .tx s))
      else
        .next { consumeFault .tx s with
          tx := { s.tx with shift := (encryptBytes s.tx.key s.tx.shift pkt).2 },
          txFlight := some (.emit (encryptBytes s.tx.key s.tx.shift pkt).1) } := by
  simp [execTxCipherEncrypt, h]

theorem execTxEmit_due (s : State) (wire : Bytes) (h : s.txFlight = some (.emit wire)) :
    execTxEmit s =
      .next { s with txFlight := none, out := s.out ++ [.event (.onEncoded wire), .response ⟨.ok, wire⟩] } := by
  simp [execTxEmit, h, State.dropFlight, State.emit, State.respond]

theorem execRxCipherDecrypt_due (s : State) (wire : Bytes) (h : s.rxFlight = some (.cipherDecrypt wire)) :
    execRxCipherDecrypt s =
      if cipherFault .rx s then .next (raiseCipherError .rx (consumeFault .rx s))
      else
        .next { consumeFault .rx s with
          rx := { s.rx with shift := (decryptBytes s.rx.key s.rx.shift wire).2 },
          rxFlight := some (.split (decryptBytes s.rx.key s.rx.shift wire).1) } := by
  simp [execRxCipherDecrypt, h]

theorem execRxSplit_due (s : State) (pkt : Bytes) (h : s.rxFlight = some (.split pkt)) :
    execRxSplit s =
      if pkt.length < 8 then .next { s with rxFlight := some .ctrIncShort }
      else .next { s with rxFlight := some (.tagCompute (pkt.take (pkt.length - 8)) (pkt.drop (pkt.length - 8))) } := by
  by_cases hl : pkt.length < 8 <;> simp [execRxSplit, h, Config.tagLen, hl]

theorem execRxTagCompute_due (s : State) (c r : Bytes) (h : s.rxFlight = some (.tagCompute c r)) :
    execRxTagCompute s = .next { s with rxFlight := some (.ctrInc c r (tag c s.rx.ctr s.rx.key)) } := by
  simp [execRxTagCompute, h]

theorem execRxCtrInc_due (s : State) (c r x : Bytes) (h : s.rxFlight = some (.ctrInc c r x)) :
    execRxCtrInc s =
      if s.rx.ctr = Ctr.max then .next (raiseFatal .rx .counterOverflow s)
      else .next { s with rx := { s.rx with ctr := s.rx.ctr + 1#64 }, rxFlight := some (.tagCompare c r x) } := by
  by_cases hc : s.rx.ctr = Ctr.max
  · simp [execRxCtrInc, h, incCtr_rx_max s hc, hc]
  · simp [execRxCtrInc, h, incCtr_rx_next s hc, hc]

theorem execRxCtrInc_dueShort (s : State) (h : s.rxFlight = some .ctrIncShort) :
    execRxCtrInc s =
      if s.rx.ctr = Ctr.max then .next (raiseFatal .rx .counterOverflow s)
      else .next (raiseFatal .rx .shortPacket { s with rx := { s.rx with ctr := s.rx.ctr + 1#64 } }) := by
  by_cases hc : s.rx.ctr = Ctr.max
  · simp [execRxCtrInc, h, incCtr_rx_max s hc, hc]
  · simp [execRxCtrInc, h, incCtr_rx_next s hc, hc]

theorem execRxTagCompare_due (s : State) (c r x : Bytes) (h : s.rxFlight = some (.tagCompare c r x)) :
    execRxTagCompare s =
      if r = x then .next { s with rxFlight := some (.decompress c) }
      else .next (raiseFatal .rx .checksumMismatch s) := by
  by_cases hr : r = x <;> simp [execRxTagCompare, h, hr]

theorem execRxDecompress_due (s : State) (c : Bytes) (h : s.rxFlight = some (.decompress c)) :
    execRxDecompress s =
      match inflateWithin s.limits.maxInflate c with
      | none => .next (raiseFatal .rx .compressionError s)
      | some payload => .next { s with rxFlight := some (.emit payload) } := by
  cases hi : inflateWithin s.limits.maxInflate c <;> simp [execRxDecompress, h, hi]

theorem execRxEmit_due (s : State) (payload : Bytes) (h : s.rxFlight = some (.emit payload)) :
    execRxEmit s =
      .next { s with rxFlight := none, out := s.out ++ [.event (.onDecoded payload), .response ⟨.ok, payload⟩] } := by
  simp [execRxEmit, h, State.dropFlight, State.emit, State.respond]

/-! Running the stages that are due. -/

@[simp] theorem runTxStages_zero (s : State) : runTxStages 0 s = .next s := rfl

@[simp] theorem runRxStages_zero (s : State) : runRxStages 0 s = .next s := rfl

theorem runTxStages_done (n : Nat) (s : State) (h : s.txFlight = none) : runTxStages n s = .next s := by
  cases n <;> simp [runTxStages, h]

theorem runRxStages_done (n : Nat) (s : State) (h : s.rxFlight = none) : runRxStages n s = .next s := by
  cases n <;> simp [runRxStages, h]

theorem runTxStages_next (n : Nat) (s t : State) (f : TxFlight) (h : s.txFlight = some f)
    (ht : txStage f s = .next t) : runTxStages (n + 1) s = runTxStages n t := by
  simp [runTxStages, h, ht]

theorem runRxStages_next (n : Nat) (s t : State) (f : RxFlight) (h : s.rxFlight = some f)
    (ht : rxStage f s = .next t) : runRxStages (n + 1) s = runRxStages n t := by
  simp [runRxStages, h, ht]

/-- The sequencer and `exec` agree on what a latch is waiting for. -/
theorem exec_txDue (f : TxFlight) (s : State) : exec (txDue f) s = txStage f s := by cases f <;> rfl

theorem exec_rxDue (f : RxFlight) (s : State) : exec (rxDue f) s = rxStage f s := by cases f <;> rfl

/-! Outputs. -/

@[simp] theorem trace_append (s : State) (l : List Output) :
    State.trace { s with out := s.out ++ l } = s.trace ++ l.filterMap Output.event? := by
  simp [State.trace]

@[simp] theorem responses_append (s : State) (l : List Output) :
    State.responses { s with out := s.out ++ l } = s.responses ++ l.filterMap Output.response? := by
  simp [State.responses]

end Sys2Proof.Machine
end

