-- ==== Sys2Proof/Laws/Commands.lean ====
section
/-! SUPPORT. What TX_ENCODE and RX_DECODE can do, each in one lemma: the outcomes, told apart by conditions on the state and the operand alone (60_exceptions.md R258), with the whole next state. Later lemmas take these apart with `rcases` and unfold no stage. -/

namespace Sys2Proof.Machine

/-- The packet TX_ENCODE builds before its cipher stage (43_tx_encode.md R182 to R184). -/
def txPacket (s : State) (payload : Bytes) : Bytes :=
  compress payload ++ tag (compress payload) s.tx.ctr s.tx.key

/-- The packet RX_DECODE finds after its cipher stage (44_rx_decode.md R202). -/
def rxPacket (s : State) (wire : Bytes) : Bytes := (decryptBytes s.rx.key s.rx.shift wire).1

/-- The received packet's compressed part (44_rx_decode.md R203). -/
def rxBody (s : State) (wire : Bytes) : Bytes := (rxPacket s wire).take ((rxPacket s wire).length - 8)

/-- The received tag (44_rx_decode.md R203). -/
def rxTag (s : State) (wire : Bytes) : Bytes := (rxPacket s wire).drop ((rxPacket s wire).length - 8)

/-- A direction as RX_DECODE leaves it when it dies after its cipher stage: the shift register advanced, the counter as given. -/
def rxDied (s : State) (wire : Bytes) (ctr : Ctr) (c : Code) : State :=
  { s with rx := { s.rx with status := .dead, err := c.nibble, ctr := ctr,
                             shift := (decryptBytes s.rx.key s.rx.shift wire).2 },
           rxFlight := none, rxEnv := { s.rxEnv with faults := s.rxEnv.faults.tail },
           out := s.out ++ [.event (.onError .rx c), .response ⟨c, []⟩] }

theorem execTxEncode_illegal (s : State) (payload : Bytes) (h : s.tx.status ≠ .ready) :
    execTxEncode payload s = .next (reject .illegalState s) := by simp [execTxEncode, h]

theorem execTxEncode_refused (s : State) (payload : Bytes) (h : s.tx.status = .ready)
    (hw : withinSpec s.limits.maxPayload payload = false) :
    execTxEncode payload s = .refused .operandOutsideSpec := by simp [execTxEncode, h, hw]

theorem execTxEncode_overflow (s : State) (payload : Bytes) (h : s.tx.status = .ready)
    (hw : withinSpec s.limits.maxPayload payload = true) (hc : s.tx.ctr = Ctr.max) :
    execTxEncode payload s =
      .next { s with tx := { s.tx with status := .dead, err := 6#4 }, txFlight := none,
                     out := s.out ++ [.event (.onError .tx .counterOverflow), .response ⟨.counterOverflow, []⟩] } := by
  simp [execTxEncode, runTxStages, txStage, execTxCompress, execTxTagCompute, execTxTagAppend, execTxCtrInc,
    incCtr, raiseFatal_tx,
    State.dir,
    Code.nibble, Code.toByte, h, hw, hc]

theorem execTxEncode_cipherError (s : State) (payload : Bytes) (h : s.tx.status = .ready)
    (hw : withinSpec s.limits.maxPayload payload = true) (hc : s.tx.ctr ≠ Ctr.max)
    (hf : s.txEnv.faults.headD false = true) :
    execTxEncode payload s =
      .next { s with tx := { s.tx with status := .dead, err := 4#4, ctr := s.tx.ctr + 1#64,
                                       shift := Config.freeShift true s.txEnv.draws },
                     txFlight := none, txEnv := { faults := s.txEnv.faults.tail, draws := s.txEnv.draws + 1 },
                     out := s.out ++ [.event (.onError .tx .cipherError), .response ⟨.cipherError, []⟩] } := by
  rw [List.headD_eq_head?_getD] at hf
  simp [execTxEncode, runTxStages, txStage, execTxCompress, execTxTagCompute, execTxTagAppend, execTxCtrInc,
    execTxCipherEncrypt, incCtr, cipherFault, consumeFault, raiseCipherError_tx,
    State.dir, State.setDir, State.env, State.setEnv,
    h, hw, hc, hf]

theorem execTxEncode_delivers (s : State) (payload : Bytes) (h : s.tx.status = .ready)
    (hw : withinSpec s.limits.maxPayload payload = true) (hc : s.tx.ctr ≠ Ctr.max)
    (hf : s.txEnv.faults.headD false = false) :
    execTxEncode payload s =
      .next { s with tx := { s.tx with ctr := s.tx.ctr + 1#64,
                                       shift := (encryptBytes s.tx.key s.tx.shift (txPacket s payload)).2 },
                     txFlight := none, txEnv := { s.txEnv with faults := s.txEnv.faults.tail },
                     out := s.out ++ [.event (.onEncoded (encryptBytes s.tx.key s.tx.shift (txPacket s payload)).1),
                                      .response ⟨.ok, (encryptBytes s.tx.key s.tx.shift (txPacket s payload)).1⟩] } := by
  rw [List.headD_eq_head?_getD] at hf
  simp [execTxEncode, runTxStages, txStage, execTxCompress, execTxTagCompute, execTxTagAppend, execTxCtrInc,
    execTxCipherEncrypt, execTxEmit, incCtr, cipherFault, consumeFault,
    State.dir, State.setDir, State.env, State.setEnv, State.dropFlight, State.emit, State.respond,
    txPacket, h, hw, hc, hf]

theorem execRxDecode_illegal (s : State) (wire : Bytes) (h : s.rx.status ≠ .ready) :
    execRxDecode wire s = .next (reject .illegalState s) := by simp [execRxDecode, h]

theorem execRxDecode_refused (s : State) (wire : Bytes) (h : s.rx.status = .ready)
    (hw : withinSpec s.limits.maxWire wire = false) :
    execRxDecode wire s = .refused .operandOutsideSpec := by simp [execRxDecode, h, hw]

theorem execRxDecode_cipherError (s : State) (wire : Bytes) (h : s.rx.status = .ready)
    (hw : withinSpec s.limits.maxWire wire = true) (hf : s.rxEnv.faults.headD false = true) :
    execRxDecode wire s =
      .next { s with rx := { s.rx with status := .dead, err := 4#4, shift := Config.freeShift false s.rxEnv.draws },
                     rxFlight := none, rxEnv := { faults := s.rxEnv.faults.tail, draws := s.rxEnv.draws + 1 },
                     out := s.out ++ [.event (.onError .rx .cipherError), .response ⟨.cipherError, []⟩] } := by
  rw [List.headD_eq_head?_getD] at hf
  simp [execRxDecode, runRxStages, rxStage, execRxCipherDecrypt,
    cipherFault, consumeFault,
    raiseCipherError_rx, State.env, State.setEnv,
    h, hw, hf]

theorem execRxDecode_overflow (s : State) (wire : Bytes) (h : s.rx.status = .ready)
    (hw : withinSpec s.limits.maxWire wire = true) (hf : s.rxEnv.faults.headD false = false)
    (hc : s.rx.ctr = Ctr.max) :
    execRxDecode wire s = .next (rxDied s wire s.rx.ctr .counterOverflow) := by
  rw [List.headD_eq_head?_getD] at hf
  by_cases hl : (rxPacket s wire).length < 8 <;> unfold rxPacket at hl <;>
  simp [execRxDecode, runRxStages, rxStage, execRxCipherDecrypt, execRxSplit, execRxTagCompute, execRxCtrInc,
    incCtr, cipherFault, consumeFault, raiseFatal_rx,
    State.dir, State.env, State.setEnv,
    Config.tagLen, rxDied, Code.nibble, Code.toByte, h, hw, hc, hf, hl]

theorem execRxDecode_short (s : State) (wire : Bytes) (h : s.rx.status = .ready)
    (hw : withinSpec s.limits.maxWire wire = true) (hf : s.rxEnv.faults.headD false = false)
    (hc : s.rx.ctr ≠ Ctr.max) (hl : (rxPacket s wire).length < 8) :
    execRxDecode wire s = .next (rxDied s wire (s.rx.ctr + 1#64) .shortPacket) := by
  rw [List.headD_eq_head?_getD] at hf
  unfold rxPacket at hl
  simp [execRxDecode, runRxStages, rxStage, execRxCipherDecrypt, execRxSplit, execRxCtrInc,
    incCtr, cipherFault, consumeFault, raiseFatal_rx,
    State.dir, State.setDir, State.env, State.setEnv,
    Config.tagLen, rxDied, Code.nibble, Code.toByte, h, hw, hc, hf, hl]

theorem execRxDecode_mismatch (s : State) (wire : Bytes) (h : s.rx.status = .ready)
    (hw : withinSpec s.limits.maxWire wire = true) (hf : s.rxEnv.faults.headD false = false)
    (hc : s.rx.ctr ≠ Ctr.max) (hl : ¬ (rxPacket s wire).length < 8)
    (ht : rxTag s wire ≠ tag (rxBody s wire) s.rx.ctr s.rx.key) :
    execRxDecode wire s = .next (rxDied s wire (s.rx.ctr + 1#64) .checksumMismatch) := by
  rw [List.headD_eq_head?_getD] at hf
  unfold rxTag rxBody rxPacket at ht
  unfold rxPacket at hl
  simp [execRxDecode, runRxStages, rxStage, execRxCipherDecrypt, execRxSplit, execRxTagCompute, execRxCtrInc,
    execRxTagCompare, incCtr, cipherFault, consumeFault, raiseFatal_rx,
    State.dir, State.setDir, State.env, State.setEnv,
    Config.tagLen, rxDied, Code.nibble, Code.toByte, h, hw, hc, hf, hl, ht]

theorem execRxDecode_badStream (s : State) (wire : Bytes) (h : s.rx.status = .ready)
    (hw : withinSpec s.limits.maxWire wire = true) (hf : s.rxEnv.faults.headD false = false)
    (hc : s.rx.ctr ≠ Ctr.max) (hl : ¬ (rxPacket s wire).length < 8)
    (ht : rxTag s wire = tag (rxBody s wire) s.rx.ctr s.rx.key)
    (hi : inflateWithin s.limits.maxInflate (rxBody s wire) = none) :
    execRxDecode wire s = .next (rxDied s wire (s.rx.ctr + 1#64) .compressionError) := by
  rw [List.headD_eq_head?_getD] at hf
  unfold rxTag rxBody rxPacket at ht
  unfold rxBody rxPacket at hi
  unfold rxPacket at hl
  simp [execRxDecode, runRxStages, rxStage, execRxCipherDecrypt, execRxSplit, execRxTagCompute, execRxCtrInc,
    execRxTagCompare, execRxDecompress, incCtr, cipherFault, consumeFault, raiseFatal_rx,
    State.dir, State.setDir, State.env, State.setEnv,
    Config.tagLen, rxDied, Code.nibble, Code.toByte, h, hw, hc, hf, hl, ht, hi]

theorem execRxDecode_delivers (s : State) (wire payload : Bytes) (h : s.rx.status = .ready)
    (hw : withinSpec s.limits.maxWire wire = true) (hf : s.rxEnv.faults.headD false = false)
    (hc : s.rx.ctr ≠ Ctr.max) (hl : ¬ (rxPacket s wire).length < 8)
    (ht : rxTag s wire = tag (rxBody s wire) s.rx.ctr s.rx.key)
    (hi : inflateWithin s.limits.maxInflate (rxBody s wire) = some payload) :
    execRxDecode wire s =
      .next { s with rx := { s.rx with ctr := s.rx.ctr + 1#64, shift := (decryptBytes s.rx.key s.rx.shift wire).2 },
                     rxFlight := none, rxEnv := { s.rxEnv with faults := s.rxEnv.faults.tail },
                     out := s.out ++ [.event (.onDecoded payload), .response ⟨.ok, payload⟩] } := by
  rw [List.headD_eq_head?_getD] at hf
  unfold rxTag rxBody rxPacket at ht
  unfold rxBody rxPacket at hi
  unfold rxPacket at hl
  simp [execRxDecode, runRxStages, rxStage, execRxCipherDecrypt, execRxSplit, execRxTagCompute, execRxCtrInc,
    execRxTagCompare, execRxDecompress, execRxEmit, incCtr, cipherFault, consumeFault,
    State.dir, State.setDir, State.env, State.setEnv, State.dropFlight, State.emit, State.respond,
    Config.tagLen, h, hw, hc, hf, hl, ht, hi]

/-- Everything TX_ENCODE can do. -/
theorem execTxEncode_cases (s : State) (payload : Bytes) :
    (s.tx.status ≠ .ready ∧ execTxEncode payload s = .next (reject .illegalState s)) ∨
    (s.tx.status = .ready ∧ withinSpec s.limits.maxPayload payload = false ∧
      execTxEncode payload s = .refused .operandOutsideSpec) ∨
    (s.tx.status = .ready ∧ s.tx.ctr = Ctr.max ∧
      execTxEncode payload s =
        .next { s with tx := { s.tx with status := .dead, err := 6#4 }, txFlight := none,
                       out := s.out ++ [.event (.onError .tx .counterOverflow), .response ⟨.counterOverflow, []⟩] }) ∨
    (s.tx.status = .ready ∧ s.tx.ctr ≠ Ctr.max ∧
      execTxEncode payload s =
        .next { s with tx := { s.tx with status := .dead, err := 4#4, ctr := s.tx.ctr + 1#64,
                                         shift := Config.freeShift true s.txEnv.draws },
                       txFlight := none, txEnv := { faults := s.txEnv.faults.tail, draws := s.txEnv.draws + 1 },
                       out := s.out ++ [.event (.onError .tx .cipherError), .response ⟨.cipherError, []⟩] }) ∨
    (s.tx.status = .ready ∧ s.tx.ctr ≠ Ctr.max ∧ ∃ shift wire,
      execTxEncode payload s =
        .next { s with tx := { s.tx with ctr := s.tx.ctr + 1#64, shift := shift },
                       txFlight := none, txEnv := { s.txEnv with faults := s.txEnv.faults.tail },
                       out := s.out ++ [.event (.onEncoded wire), .response ⟨.ok, wire⟩] }) := by
  by_cases h : s.tx.status = .ready
  · cases hw : withinSpec s.limits.maxPayload payload
    · exact .inr (.inl ⟨h, rfl, execTxEncode_refused s payload h hw⟩)
    · by_cases hc : s.tx.ctr = Ctr.max
      · exact .inr (.inr (.inl ⟨h, hc, execTxEncode_overflow s payload h hw hc⟩))
      · cases hf : s.txEnv.faults.headD false
        · exact .inr (.inr (.inr (.inr ⟨h, hc, _, _, execTxEncode_delivers s payload h hw hc hf⟩)))
        · exact .inr (.inr (.inr (.inl ⟨h, hc, execTxEncode_cipherError s payload h hw hc hf⟩)))
  · exact .inl ⟨h, execTxEncode_illegal s payload h⟩

/-- Everything RX_DECODE can do. -/
theorem execRxDecode_cases (s : State) (wire : Bytes) :
    (s.rx.status ≠ .ready ∧ execRxDecode wire s = .next (reject .illegalState s)) ∨
    (s.rx.status = .ready ∧ withinSpec s.limits.maxWire wire = false ∧
      execRxDecode wire s = .refused .operandOutsideSpec) ∨
    (s.rx.status = .ready ∧
      execRxDecode wire s =
        .next { s with rx := { s.rx with status := .dead, err := 4#4, shift := Config.freeShift false s.rxEnv.draws },
                       rxFlight := none, rxEnv := { faults := s.rxEnv.faults.tail, draws := s.rxEnv.draws + 1 },
                       out := s.out ++ [.event (.onError .rx .cipherError), .response ⟨.cipherError, []⟩] }) ∨
    (s.rx.status = .ready ∧ s.rx.ctr = Ctr.max ∧
      execRxDecode wire s = .next (rxDied s wire s.rx.ctr .counterOverflow)) ∨
    (s.rx.status = .ready ∧ s.rx.ctr ≠ Ctr.max ∧ ∃ c ∈ [Code.shortPacket, .checksumMismatch, .compressionError],
      execRxDecode wire s = .next (rxDied s wire (s.rx.ctr + 1#64) c)) ∨
    (s.rx.status = .ready ∧ s.rx.ctr ≠ Ctr.max ∧ ∃ payload,
      execRxDecode wire s =
        .next { s with rx := { s.rx with ctr := s.rx.ctr + 1#64, shift := (decryptBytes s.rx.key s.rx.shift wire).2 },
                       rxFlight := none, rxEnv := { s.rxEnv with faults := s.rxEnv.faults.tail },
                       out := s.out ++ [.event (.onDecoded payload), .response ⟨.ok, payload⟩] }) := by
  by_cases h : s.rx.status = .ready
  · cases hw : withinSpec s.limits.maxWire wire
    · exact .inr (.inl ⟨h, rfl, execRxDecode_refused s wire h hw⟩)
    · cases hf : s.rxEnv.faults.headD false
      · by_cases hc : s.rx.ctr = Ctr.max
        · exact .inr (.inr (.inr (.inl ⟨h, hc, execRxDecode_overflow s wire h hw hf hc⟩)))
        · by_cases hl : (rxPacket s wire).length < 8
          · exact .inr (.inr (.inr (.inr (.inl ⟨h, hc, _, by simp, execRxDecode_short s wire h hw hf hc hl⟩))))
          · by_cases ht : rxTag s wire = tag (rxBody s wire) s.rx.ctr s.rx.key
            · cases hi : inflateWithin s.limits.maxInflate (rxBody s wire) with
              | none => exact .inr (.inr (.inr (.inr (.inl ⟨h, hc, _, by simp,
                  execRxDecode_badStream s wire h hw hf hc hl ht hi⟩))))
              | some p => exact .inr (.inr (.inr (.inr (.inr ⟨h, hc, p,
                  execRxDecode_delivers s wire p h hw hf hc hl ht hi⟩))))
            · exact .inr (.inr (.inr (.inr (.inl ⟨h, hc, _, by simp,
                execRxDecode_mismatch s wire h hw hf hc hl ht⟩))))
      · exact .inr (.inr (.inl ⟨h, execRxDecode_cipherError s wire h hw hf⟩))
  · exact .inl ⟨h, execRxDecode_illegal s wire h⟩

end Sys2Proof.Machine
end

