-- ==== Sys2Proof/Laws/Exec.lean ====
section
/-! SUPPORT. What `exec` can do, once for the commands and once for the stages of each datapath: later lemmas take these apart and unfold no meaning. With them the small facts about operands and lengths that go with it. -/

namespace Sys2Proof.Machine

theorem withinSpec_iff_admitted (bound : Option Nat) (b : Bytes) : withinSpec bound b = true ↔ admitted bound b := by
  unfold withinSpec admitted Config.lengthBound
  rw [Bool.and_eq_true, decide_eq_true_iff]
  cases bound <;> simp

theorem Operand.wf_iff (b : Bytes) : Operand.wf b = true ↔ b.length < 2 ^ 32 := decide_eq_true_iff

theorem takeOperand_encodeOperand (b rest : Bytes) (h : b.length < 2 ^ 32) :
    takeOperand (encodeOperand b ++ rest) = some (b, rest) := by
  have := fromLE_leBytes 4 b.length (by omega)
  simp only [encodeOperand, leBytes, List.cons_append, List.nil_append] at this ⊢
  simp only [takeOperand, this]
  simp

theorem sha256_of_lt (m : Bytes) (h : m.length < 2 ^ 61) : sha256 m = shaDigest m := if_pos h

theorem sha256_of_le (m : Bytes) (h : 2 ^ 61 ≤ m.length) : sha256 m = (Config.freeDigest m).toList :=
  if_neg (Nat.not_lt.mpr h)

theorem sha256_length (m : Bytes) : (sha256 m).length = 32 := by
  unfold sha256 shaDigest
  split <;> simp

theorem tag_length (c : Bytes) (ctr : Ctr) (key : Key) : (tag c ctr key).length = 8 := by
  simp [tag, tagOf, hashFunction, sha256_length, Config.tagLen]

theorem lastSixteen_self (s : Block) : lastSixteen s.toList = s := by
  apply Vector.toList_inj.mp
  unfold lastSixteen
  rw [Block.ofBytes_toList] <;> simp

theorem lastSixteen_shiftIn (s : Block) (c : Byte) (l : Bytes) :
    lastSixteen ((shiftIn s c).toList ++ l) = lastSixteen (s.toList ++ c :: l) := by
  have h : s.toList.length = 16 := by simp
  match hs : s.toList, h with
  | a :: r, h =>
    simp only [lastSixteen, shiftIn_toList, hs]
    simp at h
    congr 1
    simp [h]
    omega

theorem newOutputs_of_append (s t : State) (l : List Output) (h : t.out = s.out ++ l) : newOutputs s t = l := by
  simp [newOutputs, h]

/-- Everything a command can do when it answers a next state. -/
theorem exec_command_cases (i : Instr) (s t : State) (hi : i.isCommand = true) (h : exec i s = .next t) :
    (i = .reset ∧ t = { s with tx := Dir.reset, rx := Dir.reset, txFlight := none, rxFlight := none,
                               out := s.out ++ [.response ⟨.ok, []⟩] }) ∨
    (i = .txClose ∧ t = { s with tx := Dir.reset, txFlight := none, out := s.out ++ [.response ⟨.ok, []⟩] }) ∨
    (i = .rxClose ∧ t = { s with rx := Dir.reset, rxFlight := none, out := s.out ++ [.response ⟨.ok, []⟩] }) ∨
    (∃ b, (i = .rdTxStatus ∨ i = .rdRxStatus ∨ i = .rdMonStatus) ∧
      t = { s with out := s.out ++ [.response ⟨.ok, [b]⟩] }) ∨
    (∃ c, (i = .rdSendCtr ∨ i = .rdRecvCtr) ∧ t = { s with out := s.out ++ [.response ⟨.ok, ctrBytes c⟩] }) ∨
    (∃ c, (c = .illegalState ∧
          ((configures .tx i ∧ s.tx.status ≠ .unconfigured) ∨ (configures .rx i ∧ s.rx.status ≠ .unconfigured) ∨
            ((∃ payload, i = .txEncode payload) ∧ s.tx.status ≠ .ready) ∨
            ((∃ wire, i = .rxDecode wire) ∧ s.rx.status ≠ .ready)) ∨
        c = .configurationError ∧ (configures .tx i ∨ configures .rx i)) ∧
      t = { s with out := s.out ++ [.response ⟨c, []⟩] }) ∨
    (∃ k v, configures .tx i ∧ s.tx.status = .unconfigured ∧
      t = { s with tx := ⟨.ready, 0#4, k, v, 0#64⟩, out := s.out ++ [.response ⟨.ok, []⟩] }) ∨
    (∃ k v, configures .rx i ∧ s.rx.status = .unconfigured ∧
      t = { s with rx := ⟨.ready, 0#4, k, v, 0#64⟩, out := s.out ++ [.response ⟨.ok, []⟩] }) ∨
    (∃ p, i = .txEncode p ∧ s.tx.status = .ready ∧
      ((∃ c n v e, c ∈ [Code.counterOverflow, .cipherError] ∧
          (n = s.tx.ctr ∨ s.tx.ctr ≠ Ctr.max ∧ n = s.tx.ctr + 1#64) ∧
          t = { s with tx := { s.tx with status := .dead, err := c.nibble, ctr := n, shift := v }, txFlight := none,
                       txEnv := e, out := s.out ++ [.event (.onError .tx c), .response ⟨c, []⟩] }) ∨
       (∃ v e w, s.tx.ctr ≠ Ctr.max ∧
          t = { s with tx := { s.tx with ctr := s.tx.ctr + 1#64, shift := v }, txFlight := none, txEnv := e,
                       out := s.out ++ [.event (.onEncoded w), .response ⟨.ok, w⟩] }))) ∨
    (∃ p, i = .rxDecode p ∧ s.rx.status = .ready ∧
      ((∃ c n v e,
          c ∈ [Code.counterOverflow, .cipherError, .shortPacket, .checksumMismatch, .compressionError] ∧
          (n = s.rx.ctr ∨ s.rx.ctr ≠ Ctr.max ∧ n = s.rx.ctr + 1#64) ∧
          t = { s with rx := { s.rx with status := .dead, err := c.nibble, ctr := n, shift := v }, rxFlight := none,
                       rxEnv := e, out := s.out ++ [.event (.onError .rx c), .response ⟨c, []⟩] }) ∨
       (∃ v e w, s.rx.ctr ≠ Ctr.max ∧
          t = { s with rx := { s.rx with ctr := s.rx.ctr + 1#64, shift := v }, rxFlight := none, rxEnv := e,
                       out := s.out ++ [.event (.onDecoded w), .response ⟨.ok, w⟩] }))) := by
  cases i <;> simp [Instr.isCommand] at hi
  case reset => exact .inl ⟨rfl, by injection h with h; rw [← h]; rfl⟩
  case txClose => exact .inr (.inl ⟨rfl, by injection h with h; rw [← h]; rfl⟩)
  case rxClose => exact .inr (.inr (.inl ⟨rfl, by injection h with h; rw [← h]; rfl⟩))
  case rdTxStatus => exact .inr (.inr (.inr (.inl ⟨_, by simp, by injection h with h; rw [← h]; rfl⟩)))
  case rdRxStatus => exact .inr (.inr (.inr (.inl ⟨_, by simp, by injection h with h; rw [← h]; rfl⟩)))
  case rdMonStatus => exact .inr (.inr (.inr (.inl ⟨_, by simp, by injection h with h; rw [← h]; rfl⟩)))
  case rdSendCtr => exact .inr (.inr (.inr (.inr (.inl ⟨_, by simp, by injection h with h; rw [← h]; rfl⟩))))
  case rdRecvCtr => exact .inr (.inr (.inr (.inr (.inl ⟨_, by simp, by injection h with h; rw [← h]; rfl⟩))))
  case txInit key iv =>
    simp only [exec, execTxInit] at h
    injection h with h
    rcases initDir_cases .tx key iv s with ⟨h1, h2⟩ | ⟨h1, h2, h3⟩ | ⟨h1, h2, h3, k, v, hk, hv, h4⟩
    · exact .inr (.inr (.inr (.inr (.inr (.inl ⟨_, .inl ⟨rfl, .inl ⟨by simp [configures], h1⟩⟩, by rw [← h, h2]; rfl⟩)))))
    · exact .inr (.inr (.inr (.inr (.inr (.inl ⟨_, .inr ⟨rfl, .inl (by simp [configures])⟩, by rw [← h, h3]; rfl⟩)))))
    · exact .inr (.inr (.inr (.inr (.inr (.inr (.inl ⟨k, v, by simp [configures], h1, by rw [← h, h4]; rfl⟩))))))
  case rxInit key iv =>
    simp only [exec, execRxInit] at h
    injection h with h
    rcases initDir_cases .rx key iv s with ⟨h1, h2⟩ | ⟨h1, h2, h3⟩ | ⟨h1, h2, h3, k, v, hk, hv, h4⟩
    · exact .inr (.inr (.inr (.inr (.inr (.inl ⟨_, .inl ⟨rfl, .inr (.inl ⟨by simp [configures], h1⟩)⟩, by rw [← h, h2]; rfl⟩)))))
    · exact .inr (.inr (.inr (.inr (.inr (.inl ⟨_, .inr ⟨rfl, .inr (by simp [configures])⟩, by rw [← h, h3]; rfl⟩)))))
    · exact .inr (.inr (.inr (.inr (.inr (.inr (.inr (.inl ⟨k, v, by simp [configures], h1, by rw [← h, h4]; rfl⟩)))))))
  case txEncode p =>
    simp only [exec] at h
    rcases execTxEncode_cases s p with ⟨h1, h2⟩ | ⟨h1, _, h2⟩ | ⟨h1, h3, h2⟩ | ⟨h1, h3, h2⟩ | ⟨h1, h3, v, w, h2⟩ <;> rw [h2] at h
    · injection h with h
      exact .inr (.inr (.inr (.inr (.inr (.inl ⟨_, .inl ⟨rfl, .inr (.inr (.inl ⟨⟨_, rfl⟩, h1⟩))⟩, by rw [← h]; rfl⟩)))))
    · cases h
    · injection h with h
      exact .inr (.inr (.inr (.inr (.inr (.inr (.inr (.inr (.inl ⟨_, rfl, h1, .inl ⟨.counterOverflow, _, _, _, by simp, .inl rfl, h.symm⟩⟩))))))))
    · injection h with h
      exact .inr (.inr (.inr (.inr (.inr (.inr (.inr (.inr (.inl ⟨_, rfl, h1, .inl ⟨.cipherError, _, _, _, by simp, .inr ⟨h3, rfl⟩, h.symm⟩⟩))))))))
    · injection h with h
      exact .inr (.inr (.inr (.inr (.inr (.inr (.inr (.inr (.inl ⟨_, rfl, h1, .inr ⟨v, _, w, h3, h.symm⟩⟩))))))))
  case rxDecode p =>
    simp only [exec] at h
    rcases execRxDecode_cases s p with ⟨h1, h2⟩ | ⟨h1, _, h2⟩ | ⟨h1, h2⟩ | ⟨h1, h3, h2⟩ | ⟨h1, h3, c, hc, h2⟩ | ⟨h1, h3, w, h2⟩ <;> rw [h2] at h
    · injection h with h
      exact .inr (.inr (.inr (.inr (.inr (.inl ⟨_, .inl ⟨rfl, .inr (.inr (.inr ⟨⟨_, rfl⟩, h1⟩))⟩, by rw [← h]; rfl⟩)))))
    · cases h
    · injection h with h
      exact .inr (.inr (.inr (.inr (.inr (.inr (.inr (.inr (.inr ⟨_, rfl, h1, .inl ⟨.cipherError, _, _, _, by simp, .inl rfl, h.symm⟩⟩))))))))
    · injection h with h
      exact .inr (.inr (.inr (.inr (.inr (.inr (.inr (.inr (.inr ⟨_, rfl, h1, .inl ⟨.counterOverflow, _, _, _, by simp, .inl rfl, h.symm⟩⟩))))))))
    · injection h with h
      refine .inr (.inr (.inr (.inr (.inr (.inr (.inr (.inr (.inr ⟨_, rfl, h1, .inl ⟨c, _, _, _, ?_, .inr ⟨h3, rfl⟩, h.symm⟩⟩))))))))
      simp at hc ⊢; tauto
    · injection h with h
      exact .inr (.inr (.inr (.inr (.inr (.inr (.inr (.inr (.inr ⟨_, rfl, h1, .inr ⟨_, _, w, h3, h.symm⟩⟩))))))))
/-- Everything a TX stage can do: turned away, or on a due latch. -/
theorem exec_txStage_cases (i : Instr) (s t : State) (hi : i.isCommand = false) (hx : ofTx i = true)
    (h : exec i s = .next t) :
    t = { s with out := s.out ++ [.response ⟨.illegalCommand, []⟩] } ∨
    (s.txFlight ≠ none ∧ ∃ x f e l, t = { s with tx := x, txFlight := f, txEnv := e, out := s.out ++ l } ∧
      x.key = s.tx.key ∧
      ((x.status = s.tx.status ∧ x.err = s.tx.err) ∨ (x.status = .dead ∧ x.err ∈ deathCodes .tx ∧ f = none)) ∧
      (∀ o ∈ l, o.good) ∧ (∀ o ∈ l, ∀ e, o = .event e → e.side = .tx) ∧
      (x.ctr.toNat = s.tx.ctr.toNat ∨ x.ctr.toNat = s.tx.ctr.toNat + 1)) := by
  cases i <;> simp [Instr.isCommand] at hi <;> simp [ofTx] at hx <;> simp only [exec] at h
  case txCompress =>
    cases hf : s.txFlight with
    | none => left; simp [execTxCompress, hf] at h; rw [← h, stageNotDue_eq, hf]
    | some f =>
      cases f with
      | compress p => rw [execTxCompress_due s p hf] at h; cases h; exact .inr ⟨by simp, s.tx, _, s.txEnv, [], by rw [List.append_nil], by simp⟩
      | _ => left; simp [execTxCompress, hf] at h; rw [← h, stageNotDue_eq, hf]
  case txTagCompute =>
    cases hf : s.txFlight with
    | none => left; simp [execTxTagCompute, hf] at h; rw [← h, stageNotDue_eq, hf]
    | some f =>
      cases f with
      | tagCompute p => rw [execTxTagCompute_due s p hf] at h; cases h; exact .inr ⟨by simp, s.tx, _, s.txEnv, [], by rw [List.append_nil], by simp⟩
      | _ => left; simp [execTxTagCompute, hf] at h; rw [← h, stageNotDue_eq, hf]
  case txTagAppend =>
    cases hf : s.txFlight with
    | none => left; simp [execTxTagAppend, hf] at h; rw [← h, stageNotDue_eq, hf]
    | some f =>
      cases f with
      | tagAppend p q => rw [execTxTagAppend_due s p q hf] at h; cases h; exact .inr ⟨by simp, s.tx, _, s.txEnv, [], by rw [List.append_nil], by simp⟩
      | _ => left; simp [execTxTagAppend, hf] at h; rw [← h, stageNotDue_eq, hf]
  case txCtrInc =>
    cases hf : s.txFlight with
    | none => left; simp [execTxCtrInc, hf] at h; rw [← h, stageNotDue_eq, hf]
    | some f =>
      cases f with
      | ctrInc p =>
        rw [execTxCtrInc_due s p hf] at h
        split at h
        · cases h; rw [raiseFatal_tx]; exact .inr ⟨by simp, _, _, s.txEnv, _, rfl, rfl,
            .inr ⟨rfl, by simp [deathCodes, Code.nibble, Code.toByte], rfl⟩,
            by simp [Output.good, Event.good, deathCodes, Code.fatal, Code.nibble, Code.toByte], by simp [Event.side], by simp⟩
        · cases h; exact .inr ⟨by simp, { s.tx with ctr := s.tx.ctr + 1#64 }, _, s.txEnv, [], by rw [List.append_nil], rfl, .inl ⟨rfl, rfl⟩, by simp, by simp, .inr (ctr_succ_toNat _ (by assumption))⟩
      | _ => left; simp [execTxCtrInc, hf] at h; rw [← h, stageNotDue_eq, hf]
  case txCipherEncrypt =>
    cases hf : s.txFlight with
    | none => left; simp [execTxCipherEncrypt, hf] at h; rw [← h, stageNotDue_eq, hf]
    | some f =>
      cases f with
      | cipherEncrypt p =>
        rw [execTxCipherEncrypt_due s p hf] at h
        split at h
        · cases h; rw [raiseCipherError_tx]; exact .inr ⟨by simp, _, _, _, _, rfl, rfl,
            .inr ⟨rfl, by simp [deathCodes], rfl⟩,
            by simp [Output.good, Event.good, deathCodes, Code.fatal, Code.nibble, Code.toByte], by simp [Event.side], by simp [consumeFault, State.setEnv]⟩
        · cases h; exact .inr ⟨by simp, { s.tx with shift := (encryptBytes s.tx.key s.tx.shift p).2 }, _, _, [], by rw [List.append_nil]; exact rfl, rfl, .inl ⟨rfl, rfl⟩, by simp, by simp, .inl rfl⟩
      | _ => left; simp [execTxCipherEncrypt, hf] at h; rw [← h, stageNotDue_eq, hf]
  case txEmit =>
    cases hf : s.txFlight with
    | none => left; simp [execTxEmit, hf] at h; rw [← h, stageNotDue_eq, hf]
    | some f =>
      cases f with
      | emit p => rw [execTxEmit_due s p hf] at h; cases h; exact .inr ⟨by simp, s.tx, _, s.txEnv, _, rfl, by simp [Output.good, Event.good, Event.side]⟩
      | _ => left; simp [execTxEmit, hf] at h; rw [← h, stageNotDue_eq, hf]

/-- Everything an RX stage can do. -/
theorem exec_rxStage_cases (i : Instr) (s t : State) (hi : i.isCommand = false) (hx : ofRx i = true)
    (h : exec i s = .next t) :
    t = { s with out := s.out ++ [.response ⟨.illegalCommand, []⟩] } ∨
    (s.rxFlight ≠ none ∧ ∃ x f e l, t = { s with rx := x, rxFlight := f, rxEnv := e, out := s.out ++ l } ∧
      x.key = s.rx.key ∧
      ((x.status = s.rx.status ∧ x.err = s.rx.err) ∨ (x.status = .dead ∧ x.err ∈ deathCodes .rx ∧ f = none)) ∧
      (∀ o ∈ l, o.good) ∧ (∀ o ∈ l, ∀ e, o = .event e → e.side = .rx) ∧
      (x.ctr.toNat = s.rx.ctr.toNat ∨ x.ctr.toNat = s.rx.ctr.toNat + 1)) := by
  cases i <;> simp [Instr.isCommand] at hi <;> simp [ofRx] at hx <;> simp only [exec] at h
  case rxCipherDecrypt =>
    cases hf : s.rxFlight with
    | none => left; simp [execRxCipherDecrypt, hf] at h; rw [← h, stageNotDue_eq, hf]
    | some f =>
      cases f with
      | cipherDecrypt p =>
        rw [execRxCipherDecrypt_due s p hf] at h
        split at h
        · cases h; rw [raiseCipherError_rx]; exact .inr ⟨by simp, _, _, _, _, rfl, rfl,
            .inr ⟨rfl, by simp [deathCodes], rfl⟩,
            by simp [Output.good, Event.good, deathCodes, Code.fatal, Code.nibble, Code.toByte], by simp [Event.side], by simp [consumeFault, State.setEnv]⟩
        · cases h; exact .inr ⟨by simp, { s.rx with shift := (decryptBytes s.rx.key s.rx.shift p).2 }, _, _, [], by rw [List.append_nil]; exact rfl, rfl, .inl ⟨rfl, rfl⟩, by simp, by simp, .inl rfl⟩
      | _ => left; simp [execRxCipherDecrypt, hf] at h; rw [← h, stageNotDue_eq, hf]
  case rxSplit =>
    cases hf : s.rxFlight with
    | none => left; simp [execRxSplit, hf] at h; rw [← h, stageNotDue_eq, hf]
    | some f =>
      cases f with
      | split p =>
        rw [execRxSplit_due s p hf] at h
        split at h <;> cases h <;> exact .inr ⟨by simp, s.rx, _, s.rxEnv, [], by rw [List.append_nil], by simp⟩
      | _ => left; simp [execRxSplit, hf] at h; rw [← h, stageNotDue_eq, hf]
  case rxTagCompute =>
    cases hf : s.rxFlight with
    | none => left; simp [execRxTagCompute, hf] at h; rw [← h, stageNotDue_eq, hf]
    | some f =>
      cases f with
      | tagCompute p q => rw [execRxTagCompute_due s p q hf] at h; cases h; exact .inr ⟨by simp, s.rx, _, s.rxEnv, [], by rw [List.append_nil], by simp⟩
      | _ => left; simp [execRxTagCompute, hf] at h; rw [← h, stageNotDue_eq, hf]
  case rxCtrInc =>
    cases hf : s.rxFlight with
    | none => left; simp [execRxCtrInc, hf] at h; rw [← h, stageNotDue_eq, hf]
    | some f =>
      cases f with
      | ctrInc c r p =>
        rw [execRxCtrInc_due s c r p hf] at h
        split at h
        · cases h; rw [raiseFatal_rx]; exact .inr ⟨by simp, _, _, s.rxEnv, _, rfl, rfl,
            .inr ⟨rfl, by simp [deathCodes, Code.nibble, Code.toByte], rfl⟩,
            by simp [Output.good, Event.good, deathCodes, Code.fatal, Code.nibble, Code.toByte], by simp [Event.side], by simp⟩
        · cases h; exact .inr ⟨by simp, { s.rx with ctr := s.rx.ctr + 1#64 }, _, s.rxEnv, [], by rw [List.append_nil], rfl, .inl ⟨rfl, rfl⟩, by simp, by simp, .inr (ctr_succ_toNat _ (by assumption))⟩
      | ctrIncShort =>
        rw [execRxCtrInc_dueShort s hf] at h
        split at h
        · cases h; rw [raiseFatal_rx]; exact .inr ⟨by simp, _, _, s.rxEnv, _, rfl, rfl,
            .inr ⟨rfl, by simp [deathCodes, Code.nibble, Code.toByte], rfl⟩,
            by simp [Output.good, Event.good, deathCodes, Code.fatal, Code.nibble, Code.toByte], by simp [Event.side], by simp⟩
        · cases h; rw [raiseFatal_rx]; exact .inr ⟨by simp, _, _, s.rxEnv, _, rfl, rfl,
            .inr ⟨rfl, by simp [deathCodes, Code.nibble, Code.toByte], rfl⟩,
            by simp [Output.good, Event.good, deathCodes, Code.fatal, Code.nibble, Code.toByte], by simp [Event.side], .inr (ctr_succ_toNat _ (by assumption))⟩
      | _ => left; simp [execRxCtrInc, hf] at h; rw [← h, stageNotDue_eq, hf]
  case rxTagCompare =>
    cases hf : s.rxFlight with
    | none => left; simp [execRxTagCompare, hf] at h; rw [← h, stageNotDue_eq, hf]
    | some f =>
      cases f with
      | tagCompare c r p =>
        rw [execRxTagCompare_due s c r p hf] at h
        split at h
        · cases h; exact .inr ⟨by simp, s.rx, _, s.rxEnv, [], by rw [List.append_nil], by simp⟩
        · cases h; rw [raiseFatal_rx]; exact .inr ⟨by simp, _, _, s.rxEnv, _, rfl, rfl,
            .inr ⟨rfl, by simp [deathCodes, Code.nibble, Code.toByte], rfl⟩,
            by simp [Output.good, Event.good, deathCodes, Code.fatal, Code.nibble, Code.toByte], by simp [Event.side], by simp⟩
      | _ => left; simp [execRxTagCompare, hf] at h; rw [← h, stageNotDue_eq, hf]
  case rxDecompress =>
    cases hf : s.rxFlight with
    | none => left; simp [execRxDecompress, hf] at h; rw [← h, stageNotDue_eq, hf]
    | some f =>
      cases f with
      | decompress c =>
        rw [execRxDecompress_due s c hf] at h
        split at h
        · cases h; rw [raiseFatal_rx]; exact .inr ⟨by simp, _, _, s.rxEnv, _, rfl, rfl,
            .inr ⟨rfl, by simp [deathCodes, Code.nibble, Code.toByte], rfl⟩,
            by simp [Output.good, Event.good, deathCodes, Code.fatal, Code.nibble, Code.toByte], by simp [Event.side], by simp⟩
        · cases h; exact .inr ⟨by simp, s.rx, _, s.rxEnv, [], by rw [List.append_nil], by simp⟩
      | _ => left; simp [execRxDecompress, hf] at h; rw [← h, stageNotDue_eq, hf]
  case rxEmit =>
    cases hf : s.rxFlight with
    | none => left; simp [execRxEmit, hf] at h; rw [← h, stageNotDue_eq, hf]
    | some f =>
      cases f with
      | emit p => rw [execRxEmit_due s p hf] at h; cases h; exact .inr ⟨by simp, s.rx, _, s.rxEnv, _, rfl, by simp [Output.good, Event.good, Event.side]⟩
      | _ => left; simp [execRxEmit, hf] at h; rw [← h, stageNotDue_eq, hf]

theorem stage_side (i : Instr) (hi : i.isCommand = false) : ofTx i = true ∨ ofRx i = true := by
  cases i <;> simp [Instr.isCommand] at hi <;> simp [ofTx, ofRx]

end Sys2Proof.Machine
end

