-- ==== Sys2Proof/Laws/PerInstr.lean ====
section
/-! SUPPORT. Families of statements with one lemma per constructor of Instr. -/

namespace Sys2Proof.Laws.FrameLength

/-- The length of the frame of an instruction (30_encoding.md R60, R68; the table's frame_length). -/
def frameLength : Instr → Nat
  | .txInit key iv => 1 + 4 + key.length + 4 + iv.length
  | .rxInit key iv => 1 + 4 + key.length + 4 + iv.length
  | .txEncode payload => 1 + 4 + payload.length
  | .rxDecode wire => 1 + 4 + wire.length
  | .reset => 1
  | .txClose => 1
  | .rxClose => 1
  | .rdTxStatus => 1
  | .rdRxStatus => 1
  | .rdSendCtr => 1
  | .rdRecvCtr => 1
  | .rdMonStatus => 1
  | .txCompress => 1
  | .txTagCompute => 1
  | .txTagAppend => 1
  | .txCtrInc => 1
  | .txCipherEncrypt => 1
  | .txEmit => 1
  | .rxCipherDecrypt => 1
  | .rxSplit => 1
  | .rxTagCompute => 1
  | .rxCtrInc => 1
  | .rxTagCompare => 1
  | .rxDecompress => 1
  | .rxEmit => 1

/-- The frame of an instruction begins with the table's byte and has the table's length. -/
def Statement (i : Instr) : Prop := (encode i).head? = some i.opcode ∧ (encode i).length = frameLength i

theorem reset : Statement .reset := ⟨rfl, rfl⟩
theorem txInit (key iv : Bytes) : Statement (.txInit key iv) :=
  ⟨rfl, by simp [encode, Instr.operands, encodeOperand, frameLength]; omega⟩
theorem txEncode (payload : Bytes) : Statement (.txEncode payload) :=
  ⟨rfl, by simp [encode, Instr.operands, encodeOperand, frameLength]; omega⟩
theorem txClose : Statement .txClose := ⟨rfl, rfl⟩
theorem rxInit (key iv : Bytes) : Statement (.rxInit key iv) :=
  ⟨rfl, by simp [encode, Instr.operands, encodeOperand, frameLength]; omega⟩
theorem rxDecode (wire : Bytes) : Statement (.rxDecode wire) :=
  ⟨rfl, by simp [encode, Instr.operands, encodeOperand, frameLength]; omega⟩
theorem rxClose : Statement .rxClose := ⟨rfl, rfl⟩
theorem rdTxStatus : Statement .rdTxStatus := ⟨rfl, rfl⟩
theorem rdRxStatus : Statement .rdRxStatus := ⟨rfl, rfl⟩
theorem rdSendCtr : Statement .rdSendCtr := ⟨rfl, rfl⟩
theorem rdRecvCtr : Statement .rdRecvCtr := ⟨rfl, rfl⟩
theorem rdMonStatus : Statement .rdMonStatus := ⟨rfl, rfl⟩
theorem txCompress : Statement .txCompress := ⟨rfl, rfl⟩
theorem txTagCompute : Statement .txTagCompute := ⟨rfl, rfl⟩
theorem txTagAppend : Statement .txTagAppend := ⟨rfl, rfl⟩
theorem txCtrInc : Statement .txCtrInc := ⟨rfl, rfl⟩
theorem txCipherEncrypt : Statement .txCipherEncrypt := ⟨rfl, rfl⟩
theorem txEmit : Statement .txEmit := ⟨rfl, rfl⟩
theorem rxCipherDecrypt : Statement .rxCipherDecrypt := ⟨rfl, rfl⟩
theorem rxSplit : Statement .rxSplit := ⟨rfl, rfl⟩
theorem rxTagCompute : Statement .rxTagCompute := ⟨rfl, rfl⟩
theorem rxCtrInc : Statement .rxCtrInc := ⟨rfl, rfl⟩
theorem rxTagCompare : Statement .rxTagCompare := ⟨rfl, rfl⟩
theorem rxDecompress : Statement .rxDecompress := ⟨rfl, rfl⟩
theorem rxEmit : Statement .rxEmit := ⟨rfl, rfl⟩

end Sys2Proof.Laws.FrameLength
end

