-- ==== Sys2Proof/Tests/Slice0.lean ====
section
/-! SUPPORT. Tests: ill-formed terms refused, every constructor's word written out from 30_encoding.md R62 and R76, the check values of 95_test_vectors.md, one step per instruction, and for every obligation with hypotheses a state and operands that meet them. -/

namespace Sys2Proof.Machine.Slice0Tests

/-! ## Helpers -/

/-- 95_test_vectors.md: `K1`, the bytes 00 to 1f. -/
def k1 : Key := Vector.ofFn (fun i => BitVec.ofNat 8 i)

/-- 95_test_vectors.md: `IV1`, the bytes f0 to ff. -/
def iv1 : Block := Vector.ofFn (fun i => BitVec.ofNat 8 (0xf0 + i))

/-- A direction after a successful `*_INIT` with K1 and IV1, its counter at `n`. -/
def readyDir (n : Nat) : Dir := { status := .ready, err := 0#4, key := k1, shift := iv1, ctr := BitVec.ofNat 64 n }

/-- Both directions READY. -/
def ready (n : Nat) : State := { State.reset with tx := readyDir n, rx := readyDir n }

/-- A direction dead by a code. -/
def deadDir (e : BitVec 4) : Dir := { readyDir 1 with status := .dead, err := e }

/-- Both directions DEAD, TX by CipherError, RX by ChecksumMismatch. -/
def dead : State := { State.reset with tx := deadDir 4#4, rx := deadDir 2#4 }

/-- A transmission alone on the port. -/
def sent (bytes : Bytes) (s : State) : State := { s with port := [.frame bytes] }

/-- A due TX stage on `ready n`. -/
def txAt (n : Nat) (f : TxFlight) : State := { ready n with txFlight := some f }

/-- A due RX stage on `ready n`. -/
def rxAt (n : Nat) (f : RxFlight) : State := { ready n with rxFlight := some f }

/-- The state an outcome goes on with. -/
def after (o : Host.Outcome State Fault Refusal) : Option State :=
  match o with
  | .next t => some t
  | _ => none

/-- The outputs of the state an outcome goes on with. -/
def outs (o : Host.Outcome State Fault Refusal) : Option (List Output) := (after o).map State.out

/-- The wire bytes of V-DEC-20: the packet `03 00` and its tag at counter 0, encrypted from K1 and IV1. -/
def wire20 : Bytes := [0x91#8, 0xf3#8, 0xc9#8, 0xf7#8, 0x6d#8, 0xe8#8, 0x90#8, 0x49#8, 0x3f#8, 0x47#8]

/-- The packet of V-DEC-20. -/
def pkt20 : Bytes := [0x03#8, 0x00#8, 0x1b#8, 0x70#8, 0xdf#8, 0x6b#8, 0x10#8, 0xa5#8, 0xf5#8, 0x7d#8]

/-- The wire bytes of V-DEC-16: the empty string and its tag. -/
def wire16 : Bytes := [0x66#8, 0xcd#8, 0xb2#8, 0xe9#8, 0x61#8, 0x4d#8, 0x76#8, 0x28#8]

/-- The packet of V-DEC-16: the tag V-TAG-1 alone. -/
def pkt16 : Bytes := [0xf4#8, 0xb3#8, 0x29#8, 0x77#8, 0xb2#8, 0x59#8, 0xa8#8, 0x7e#8]

/-! ## Well-formedness: an operand too long for its 32-bit length field is refused (R63) -/

/-- A string one byte too long. -/
def tooLong : Bytes := List.replicate (2 ^ 32) 0#8

theorem test_wf_operand_too_long : Operand.wf tooLong = false :=
  decide_eq_false (by rw [tooLong, List.length_replicate]; exact Nat.lt_irrefl _)
theorem test_wf_operand_longest (b : Bytes) (h : b.length = 2 ^ 32 - 1) : Operand.wf b = true :=
  decide_eq_true (by omega)
theorem test_wf_txEncode_refused : (Instr.txEncode tooLong).wf = false := test_wf_operand_too_long
theorem test_wf_rxDecode_refused : (Instr.rxDecode tooLong).wf = false := test_wf_operand_too_long
theorem test_wf_txInit_key_refused : (Instr.txInit tooLong []).wf = false := by
  rw [Instr.wf, test_wf_operand_too_long]; rfl
theorem test_wf_txInit_iv_refused : (Instr.txInit [] tooLong).wf = false := by
  rw [Instr.wf, test_wf_operand_too_long]; rfl
theorem test_wf_rxInit_key_refused : (Instr.rxInit tooLong []).wf = false := by
  rw [Instr.wf, test_wf_operand_too_long]; rfl
theorem test_wf_rxInit_iv_refused : (Instr.rxInit [] tooLong).wf = false := by
  rw [Instr.wf, test_wf_operand_too_long]; rfl
/-- R63: a key of the wrong length is a well-formed frame. -/
theorem test_wf_short_key : (Instr.txInit [0#8] []).wf = true := by decide

/-! ## Decoding: one word for every constructor (R60, R62, R76) -/

theorem test_decode_reset : decodeFrame [0b00000000#8] = .command .reset [] := by decide
theorem test_decode_txInit :
    decodeFrame [0b00010000#8, 2#8, 0#8, 0#8, 0#8, 0xA0#8, 0xA1#8, 1#8, 0#8, 0#8, 0#8, 0xB0#8, 0x99#8] =
      .command (.txInit [0xA0#8, 0xA1#8] [0xB0#8]) [0x99#8] := by decide
theorem test_decode_txEncode :
    decodeFrame [0b00010001#8, 3#8, 0#8, 0#8, 0#8, 0x61#8, 0x62#8, 0x63#8] =
      .command (.txEncode [0x61#8, 0x62#8, 0x63#8]) [] := by decide
theorem test_decode_txClose : decodeFrame [0b00011111#8] = .command .txClose [] := by decide
theorem test_decode_rxInit :
    decodeFrame [0b00100000#8, 0#8, 0#8, 0#8, 0#8, 1#8, 0#8, 0#8, 0#8, 0xB0#8] = .command (.rxInit [] [0xB0#8]) [] := by
  decide
theorem test_decode_rxDecode :
    decodeFrame [0b00100001#8, 1#8, 0#8, 0#8, 0#8, 0x07#8, 0x30#8] = .command (.rxDecode [0x07#8]) [0x30#8] := by decide
theorem test_decode_rxClose : decodeFrame [0b00101111#8] = .command .rxClose [] := by decide
theorem test_decode_rdTxStatus : decodeFrame [0b00110000#8] = .command .rdTxStatus [] := by decide
theorem test_decode_rdRxStatus : decodeFrame [0b00110001#8] = .command .rdRxStatus [] := by decide
theorem test_decode_rdSendCtr : decodeFrame [0b00110010#8] = .command .rdSendCtr [] := by decide
theorem test_decode_rdRecvCtr : decodeFrame [0b00110011#8] = .command .rdRecvCtr [] := by decide
theorem test_decode_rdMonStatus : decodeFrame [0b00110100#8] = .command .rdMonStatus [] := by decide
theorem test_decode_txCompress : decodeStage 0b00010001#8 = some .txCompress := by decide
theorem test_decode_txTagCompute : decodeStage 0b00010010#8 = some .txTagCompute := by decide
theorem test_decode_txTagAppend : decodeStage 0b00010011#8 = some .txTagAppend := by decide
theorem test_decode_txCtrInc : decodeStage 0b00010100#8 = some .txCtrInc := by decide
theorem test_decode_txCipherEncrypt : decodeStage 0b00010101#8 = some .txCipherEncrypt := by decide
theorem test_decode_txEmit : decodeStage 0b00010110#8 = some .txEmit := by decide
theorem test_decode_rxCipherDecrypt : decodeStage 0b00100001#8 = some .rxCipherDecrypt := by decide
theorem test_decode_rxSplit : decodeStage 0b00100010#8 = some .rxSplit := by decide
theorem test_decode_rxTagCompute : decodeStage 0b00100011#8 = some .rxTagCompute := by decide
theorem test_decode_rxCtrInc : decodeStage 0b00100100#8 = some .rxCtrInc := by decide
theorem test_decode_rxTagCompare : decodeStage 0b00100101#8 = some .rxTagCompare := by decide
theorem test_decode_rxDecompress : decodeStage 0b00100110#8 = some .rxDecompress := by decide
theorem test_decode_rxEmit : decodeStage 0b00100111#8 = some .rxEmit := by decide
/-- V-ST-2, V-ST-3: illegal opcodes and malformed frames. -/
theorem test_decode_illegal : decodeFrame [0x12#8] = .illegal 0x12#8 [] ∧ decodeFrame [0xff#8, 0x00#8] = .illegal 0xff#8 [0x00#8] ∧
    decodeFrame [0x35#8] = .illegal 0x35#8 [] := by decide
theorem test_decode_malformed : decodeFrame [0x11#8, 0x05#8, 0#8, 0#8, 0#8, 0x61#8] = .malformed ∧
    decodeFrame [0x10#8, 0x20#8, 0#8] = .malformed := by decide
/-- 30_encoding.md R61: unit and function nibbles. -/
theorem test_opcode_nibbles : opUnit 0x2F#8 = 2#4 ∧ opFn 0x2F#8 = 0xF#4 := by decide
/-- R70. -/
theorem test_pseudo : (Pseudo.openConn2 [1#8] [2#8] [3#8]).expand = [.txInit [1#8] [2#8], .rxInit [1#8] [3#8]] := rfl
/-- R69: hexadecimal pairs, a quoted string, a comment. -/
theorem test_asm_line : readLine "TX_ENCODE \"abc\" ; three bytes".toList = some [.txEncode [0x61#8, 0x62#8, 0x63#8]] := rfl
theorem test_asm_labels : readLine "RX_INIT key=01 ff, iv=\"\"".toList = some [.rxInit [0x01#8, 0xff#8] []] := rfl
/-- R64, R75: V-DEC-13's response and event. -/
theorem test_response_bytes : Response.encode ⟨.shortPacket, []⟩ = [0x05#8, 0#8, 0#8, 0#8, 0#8] := by decide
theorem test_event_bytes : Event.encode (.onError .rx .shortPacket) = [0x03#8, 2#8, 0#8, 0#8, 0#8, 0x02#8, 0x05#8] := by decide

/-! ## The functions, against 95_test_vectors.md -/

/-- V-SHA-2, and V-SHA-5 of two blocks. -/
theorem test_sha :
    (sha256 [0x61#8, 0x62#8, 0x63#8]).take 8 = [0xba#8, 0x78#8, 0x16#8, 0xbf#8, 0x8f#8, 0x01#8, 0xcf#8, 0xea#8] ∧
      (sha256 (List.replicate 56 0x61#8)).take 4 = [0xb3#8, 0x54#8, 0x39#8, 0xa4#8] := by decide +kernel
/-- V-AES-1. -/
theorem test_aes : (aes256 k1 (Vector.ofFn (fun i => BitVec.ofNat 8 (17 * i)))).toList =
    [0x8e#8, 0xa2#8, 0xb7#8, 0xca#8, 0x51#8, 0x67#8, 0x45#8, 0xbf#8, 0xea#8, 0xfc#8, 0x49#8, 0x90#8, 0x4b#8, 0x49#8,
      0x60#8, 0x89#8] := by decide +kernel
/-- V-ENC-1: the first three cipher steps from K1 and IV1. -/
theorem test_cfb_encrypt : (encryptBytes k1 iv1 [0x01#8, 0x00#8, 0x00#8]).1 = [0x93#8, 0x98#8, 0xc0#8] := by decide +kernel
/-- V-INF-3, 6, 7: fixed block, overlapping copy, stored block. -/
theorem test_inflate :
    inflate [0x4b#8, 0x4c#8, 0x4a#8, 0x06#8, 0x00#8] = some [0x61#8, 0x62#8, 0x63#8] ∧
      inflate [0x4b#8, 0x4c#8, 0x44#8, 0x05#8, 0x00#8] = some (List.replicate 16 0x61#8) ∧
      inflate [0x01#8, 0x03#8, 0x00#8, 0xfc#8, 0xff#8, 0x61#8, 0x62#8, 0x63#8] = some [0x61#8, 0x62#8, 0x63#8] := by
  decide +kernel
/-- V-INF-1. -/
theorem test_inflate_empty : inflate [0x03#8, 0x00#8] = some [] := by decide +kernel
/-- V-INF-16: a dynamic block with a single distance code. -/
theorem test_inflate_dynamic :
    inflate [0x0d#8, 0xc0#8, 0x01#8, 0x09#8, 0x00#8, 0x00#8, 0x00#8, 0x80#8, 0xa0#8, 0xad#8, 0xfe#8, 0x3f#8, 0x51#8,
      0x5a#8] = some [0x61#8, 0x61#8, 0x61#8, 0x61#8] := by decide +kernel
/-- V-INF-18, 19, 24, 40: block type 3, a wrong complement, a trailing byte, a distance too far. -/
theorem test_inflate_rejects : inflate [0x07#8] = none ∧ inflate [0x01#8, 0x00#8, 0x00#8, 0xff#8, 0xfe#8] = none ∧
    inflate [0x03#8, 0x00#8, 0x00#8] = none ∧ inflate [0x03#8, 0x02#8, 0x00#8] = none := by decide +kernel
/-- R206 with a bound: V-INF-3 under MAX_INFLATE_BYTES = 2 and 3. -/
theorem test_inflate_bound : inflateWithin (some 2) [0x4b#8, 0x4c#8, 0x4a#8, 0x06#8, 0x00#8] = none ∧
    inflateWithin (some 3) [0x4b#8, 0x4c#8, 0x4a#8, 0x06#8, 0x00#8] = some [0x61#8, 0x62#8, 0x63#8] := by decide +kernel
/-- V-CS-2. -/
theorem test_compress_stored :
    compressStored [0x61#8, 0x62#8, 0x63#8] = [0x01#8, 0x03#8, 0x00#8, 0xfc#8, 0xff#8, 0x61#8, 0x62#8, 0x63#8] := rfl

/-! ## One step of each instruction -/

/-- A frame on the port of the state after reset: one step, one response (R291, V-ST-1). -/
theorem test_step_rdSendCtr : outs (step (sent [0x32#8] State.reset)) = some [.response ⟨.ok, List.replicate 8 0#8⟩] := rfl
theorem test_step_illegal_keeps_rest :
    (after (step (sent [0x12#8, 0x34#8] State.reset))).map State.port = some [.frame [0x34#8]] := rfl
theorem test_step_malformed : outs (step (sent [0x10#8, 0x20#8] State.reset)) = some [.response ⟨.illegalCommand, []⟩] := rfl
theorem test_fetch_word : outs (step (State.reset.withFetchWord 8 0x30)) = some [.response ⟨.ok, [0#8]⟩] := rfl
theorem test_fetch_stage : (after (step (State.reset.withFetchWord 8 0x13))).map State.txFlight = some (some (.ctrInc [])) := rfl
theorem test_reset : (after (exec .reset dead)).map (fun t => (t.tx.status, t.rx.err)) = some (.unconfigured, 0#4) := rfl
/-- R290 (a), R305: the reset input on a block with an event in its trace. -/
theorem test_reset_input : (after (step { dead with port := [.resetInput], out := [.event (.onError .rx .checksumMismatch)] })).map
    (fun t => (t.trace, t.out, t.tx, t.rx)) = some ([], [.response ⟨.ok, []⟩], Dir.reset, Dir.reset) := rfl
/-- V-ST-4: a 31-byte key. -/
theorem test_txInit_bad_key : outs (exec (.txInit (List.replicate 31 0#8) iv1.toList) State.reset) =
    some [.response ⟨.configurationError, []⟩] := rfl
theorem test_txInit : (after (exec (.txInit k1.toList iv1.toList) State.reset)).map State.tx = some (readyDir 0) := rfl
theorem test_rxInit : (after (exec (.rxInit k1.toList iv1.toList) State.reset)).map State.rx = some (readyDir 0) := rfl
theorem test_rxInit_twice : outs (exec (.rxInit k1.toList iv1.toList) (ready 0)) = some [.response ⟨.illegalState, []⟩] := rfl
/-- V-CTR-4: CipherError leaves the counter moved. -/
theorem test_txEncode_cipherError :
    (after (exec (.txEncode [0x61#8]) { ready 5 with txEnv := { faults := [true], draws := 0 } })).map
      (fun t => (t.tx.status, t.tx.err, t.tx.ctr)) = some (.dead, 4#4, 6#64) := rfl
theorem test_txEncode_dead : outs (exec (.txEncode []) dead) = some [.response ⟨.illegalState, []⟩] := rfl
theorem test_txClose : (after (exec .txClose dead)).map (fun t => (t.tx.status, t.rx.status)) = some (.unconfigured, .dead) := rfl
theorem test_rxClose : (after (exec .rxClose dead)).map (fun t => (t.tx.status, t.rx.status)) = some (.dead, .unconfigured) := rfl
/-- V-DEC-14: a short packet advances `S` and the counter. -/
theorem test_rxDecode_short : (after (exec (.rxDecode [1#8, 2#8, 3#8]) (ready 0))).map
    (fun t => (t.rx.err, t.rx.ctr, t.rx.shift.toList.drop 12)) = some (5#4, 1#64, [0xff#8, 0x01#8, 0x02#8, 0x03#8]) := rfl
theorem test_rdTxStatus : outs (exec .rdTxStatus dead) = some [.response ⟨.ok, [0x42#8]⟩] := rfl
theorem test_rdRxStatus : outs (exec .rdRxStatus dead) = some [.response ⟨.ok, [0x22#8]⟩] := rfl
theorem test_rdSendCtr : outs (exec .rdSendCtr (ready 0x0203)) =
    some [.response ⟨.ok, [3#8, 2#8, 0#8, 0#8, 0#8, 0#8, 0#8, 0#8]⟩] := rfl
theorem test_rdRecvCtr : outs (exec .rdRecvCtr (ready 3)) =
    some [.response ⟨.ok, [3#8, 0#8, 0#8, 0#8, 0#8, 0#8, 0#8, 0#8]⟩] := rfl
/-- R231's examples: both ready; TX ready and RX dead by ChecksumMismatch. -/
theorem test_rdMonStatus_ready : outs (exec .rdMonStatus (ready 0)) = some [.response ⟨.ok, [0x03#8]⟩] := rfl
theorem test_rdMonStatus_mismatch : outs (exec .rdMonStatus { ready 0 with rx := deadDir 2#4 }) =
    some [.response ⟨.ok, [0x05#8]⟩] := rfl
theorem test_txTagCompute : (after (exec .txTagCompute (txAt 0 (.tagCompute [])))).map State.txFlight =
    some (some (.tagAppend [] pkt16)) := by decide +kernel
theorem test_txTagAppend : (after (exec .txTagAppend (txAt 0 (.tagAppend [1#8] [2#8])))).map State.txFlight =
    some (some (.ctrInc [1#8, 2#8])) := rfl
/-- V-CTR-1: no wrap at the top. -/
theorem test_txCtrInc_overflow : (after (exec .txCtrInc (txAt (2 ^ 64 - 1) (.ctrInc [])))).map
    (fun t => (t.tx.err, t.tx.ctr, t.txFlight)) = some (6#4, BitVec.allOnes 64, none) := rfl
theorem test_txCtrInc : (after (exec .txCtrInc (txAt (2 ^ 64 - 2) (.ctrInc [])))).map
    (fun t => (t.tx.err, t.tx.ctr)) = some (0#4, BitVec.allOnes 64) := rfl
theorem test_txCipherEncrypt : (after (exec .txCipherEncrypt (txAt 0 (.cipherEncrypt [0x01#8])))).map
    (fun t => (t.txFlight, t.tx.shift.toList.getLast?)) = some (some (.emit [0x93#8]), some 0x93#8) := by decide +kernel
theorem test_txEmit : outs (exec .txEmit (txAt 1 (.emit [7#8]))) =
    some [.event (.onEncoded [7#8]), .response ⟨.ok, [7#8]⟩] := rfl
theorem test_rxCipherDecrypt : (after (exec .rxCipherDecrypt (rxAt 0 (.cipherDecrypt [0x93#8])))).map
    (fun t => (t.rxFlight, t.rx.shift.toList.getLast?)) = some (some (.split [0x01#8]), some 0x93#8) := by decide +kernel
theorem test_rxSplit : (after (exec .rxSplit (rxAt 0 (.split pkt20)))).map State.rxFlight =
    some (some (.tagCompute [0x03#8, 0x00#8] (pkt20.drop 2))) := rfl
theorem test_rxSplit_seven : (after (exec .rxSplit (rxAt 0 (.split (List.replicate 7 0#8))))).map State.rxFlight =
    some (some .ctrIncShort) := rfl
theorem test_rxTagCompute : (after (exec .rxTagCompute (rxAt 0 (.tagCompute [] [])))).map State.rxFlight =
    some (some (.ctrInc [] [] pkt16)) := by decide +kernel
theorem test_rxCtrInc_short : (after (exec .rxCtrInc (rxAt 0 .ctrIncShort))).map (fun t => (t.rx.err, t.rx.ctr)) =
    some (5#4, 1#64) := rfl
theorem test_rxTagCompare : outs (exec .rxTagCompare (rxAt 1 (.tagCompare [] pkt16 (pkt16.set 7 0#8)))) =
    some [.event (.onError .rx .checksumMismatch), .response ⟨.checksumMismatch, []⟩] := rfl
theorem test_rxDecompress : (after (exec .rxDecompress (rxAt 1 (.decompress [0x03#8, 0x00#8])))).map State.rxFlight =
    some (some (.emit [])) := by decide +kernel
theorem test_rxDecompress_empty : outs (exec .rxDecompress (rxAt 1 (.decompress []))) =
    some [.event (.onError .rx .compressionError), .response ⟨.compressionError, []⟩] := rfl
theorem test_rxEmit : outs (exec .rxEmit (rxAt 1 (.emit [7#8]))) =
    some [.event (.onDecoded [7#8]), .response ⟨.ok, [7#8]⟩] := rfl
theorem test_stage_not_due : exec .rxEmit (ready 0) =
    .next { ready 0 with out := [.response ⟨.illegalCommand, []⟩] } := rfl

/-- V-DEC-20 and V-DEC-16: what the two wire strings decrypt to. -/
theorem test_wires : (decryptBytes k1 iv1 wire20).1 = pkt20 ∧ (decryptBytes k1 iv1 wire16).1 = pkt16 := by decide +kernel
/-- V-DEC-20's tag, V-TAG-1, and the order of the counter's bytes in V-TAG-6. -/
theorem test_tags : tag [0x03#8, 0x00#8] 0#64 k1 = pkt20.drop 2 ∧ tag [] 0#64 k1 = pkt16 ∧
    tag [0x03#8, 0x00#8] 0x0102030405060708#64 k1 = [0x5f#8, 0x3b#8, 0x26#8, 0x9e#8, 0x1e#8, 0xd4#8, 0x71#8, 0xcc#8] ∧
    tag [0x03#8, 0x00#8] 1#64 k1 ≠ pkt20.drop 2 := by decide +kernel

/-! ## Witnesses: for every obligation with hypotheses, a state and operands that meet them -/

/-- TX_ENCODE on `ready n` below the top completes. -/
theorem encode_next (n : Nat) (payload : Bytes) (h : BitVec.ofNat 64 n ≠ Ctr.max)
    (hw : withinSpec none payload = true) : ∃ t, exec (.txEncode payload) (ready n) = .next t :=
  ⟨_, execTxEncode_delivers (ready n) payload rfl hw h rfl⟩

/-- V-DEC-20 completes with `(OK, "")`. -/
theorem decode_next : ∃ t, exec (.rxDecode wire20) (ready 0) = .next t ∧
    newOutputs (ready 0) t = [.event (.onDecoded []), .response ⟨.ok, []⟩] := by
  have hp : rxPacket (ready 0) wire20 = pkt20 := test_wires.1
  have hb : rxBody (ready 0) wire20 = [0x03#8, 0x00#8] := by rw [rxBody, hp]; rfl
  have ht : rxTag (ready 0) wire20 = pkt20.drop 2 := by rw [rxTag, hp]; rfl
  refine ⟨_, execRxDecode_delivers (ready 0) wire20 [] rfl rfl rfl (by decide) (by rw [hp]; decide) ?_ ?_, rfl⟩
  · rw [hb, ht]; exact test_tags.1.symm
  · rw [hb, inflateWithin, test_inflate_empty]; rfl

theorem ready_inv : (sent [0x30#8] (ready 0)).Inv :=
  ⟨rfl, rfl, fun o h => (by cases h), fun h => absurd rfl h, fun h => absurd rfl h⟩

theorem witness_DecodeOfEncodedCommand :
    (Instr.txInit [1#8] []).isCommand = true ∧ (Instr.txInit [1#8] []).wf = true := by decide
theorem witness_DecodedFrameIsEncoding : decodeFrame [0x34#8, 0x99#8] = .command .rdMonStatus [0x99#8] := rfl
theorem witness_IllegalOpcodeRejected :
    ((sent [0x12#8, 0x34#8] State.reset).atRest ∧ (sent [0x12#8, 0x34#8] State.reset).port = .frame [0x12#8, 0x34#8] :: [] ∧
      decodeFrame [0x12#8, 0x34#8] = .illegal 0x12#8 [0x34#8]) ∧
    (∀ op ∈ [0x01#8, 0x0F#8, 0x12#8, 0x1E#8, 0x22#8, 0x2E#8, 0x35#8, 0x3F#8, 0x40#8, 0xFF#8], decodeFrame [op] = .illegal op []) ∧
    (∀ op ∈ [0x00#8, 0x1F#8, 0x2F#8, 0x30#8, 0x34#8], ∃ i, decodeFrame [op] = .command i []) :=
  ⟨⟨⟨rfl, rfl⟩, rfl, rfl⟩, by decide, by
    intro op h
    simp only [List.mem_cons, List.not_mem_nil, or_false] at h
    rcases h with rfl | rfl | rfl | rfl | rfl <;> exact ⟨_, rfl⟩⟩
theorem witness_TruncatedFrameRejected : ∀ k ∈ [1, 5], (Instr.txEncode [0x61#8]).isCommand = true ∧
    (Instr.txEncode [0x61#8]).wf = true ∧ 0 < k ∧ k < (encode (.txEncode [0x61#8])).length ∧
    (sent ((encode (.txEncode [0x61#8])).take k) State.reset).atRest := by
  intro k hk
  simp only [List.mem_cons, List.not_mem_nil, or_false] at hk
  rcases hk with rfl | rfl <;> exact ⟨rfl, rfl, by decide, by decide, rfl, rfl⟩
theorem witness_StepRunsDecodedCommand : (sent [0x34#8, 0x00#8] (ready 0)).atRest ∧
    (sent [0x34#8, 0x00#8] (ready 0)).port = .frame [0x34#8, 0x00#8] :: [] ∧
    decodeFrame [0x34#8, 0x00#8] = .command .rdMonStatus [0x00#8] := ⟨⟨rfl, rfl⟩, rfl, rfl⟩
theorem witness_StepRunsDueStageOrIdles : (txAt 0 (.emit [])).txFlight = some (.emit []) ∧
    (rxAt 0 (.emit [])).txFlight = none ∧ (rxAt 0 (.emit [])).rxFlight = some (.emit []) ∧
    (ready 0).atRest ∧ (ready 0).port = [] := ⟨rfl, rfl, rfl, ⟨rfl, rfl⟩, rfl⟩
theorem witness_ResetInputClearsBlock : ({ dead with port := [.resetInput] } : State).atRest ∧
    ({ dead with port := [.resetInput] } : State).port = .resetInput :: [] := ⟨⟨rfl, rfl⟩, rfl⟩
theorem witness_AssemblerLineReadsBack : (Instr.rxInit [] [0xff#8]).isCommand = true := rfl
theorem witness_ResetValuesAndAnswers : State.reset.tx = State.reset.tx ∧ Instr.rdTxStatus.isCommand = true ∧
    ¬ configures .tx .rdTxStatus ∧ ¬ configures .rx .rdTxStatus := by
  refine ⟨rfl, rfl, ?_, ?_⟩ <;> rintro (⟨_, _, _, h⟩ | ⟨_, _, _, h⟩) <;> cases h
theorem witness_StepKeepsInvariant : (sent [0x30#8] (ready 0)).Inv ∧ ∃ t, step (sent [0x30#8] (ready 0)) = .next t :=
  ⟨ready_inv, _, rfl⟩
theorem witness_StepLeavesNothingInFlight : (sent [0x30#8] (ready 0)).atRest ∧
    ∃ t, step (sent [0x30#8] (ready 0)) = .next t := ⟨⟨rfl, rfl⟩, _, rfl⟩
theorem witness_OutputOnlyGrows : (∃ t, exec .rdTxStatus (ready 0) = .next t) ∧
    (∃ t, step (sent [0x30#8] (ready 0)) = .next t) ∧ ∀ tail, (sent [0x30#8] (ready 0)).port ≠ .resetInput :: tail :=
  ⟨⟨_, rfl⟩, ⟨_, rfl⟩, fun tail h => by cases h⟩
theorem witness_OneResponseEachCommand : (∃ t, exec .rdTxStatus (ready 0) = .next t) ∧
    (∃ t, exec .rdRecvCtr (ready 0) = .next t) ∧ (∃ t, exec .txClose (ready 0) = .next t) ∧
    (∃ t, exec (.rxInit [] []) State.reset = .next t ∧ newOutputs State.reset t = [.response ⟨.configurationError, []⟩]) :=
  ⟨⟨_, rfl⟩, ⟨_, rfl⟩, ⟨_, rfl⟩, _, rfl, rfl⟩
theorem witness_EncodedEventExactlyOnOk : ∃ t, exec (.txEncode [0x61#8]) (ready 0) = .next t :=
  encode_next 0 [0x61#8] (by decide) rfl
theorem witness_DecodedEventExactlyOnOk : ∃ t, exec (.rxDecode wire20) (ready 0) = .next t ∧
    .event (.onDecoded []) ∈ newOutputs (ready 0) t := by
  obtain ⟨t, h, ho⟩ := decode_next
  exact ⟨t, h, by rw [ho]; exact List.mem_cons_self⟩
/-- V-DEC-13: the empty operand. -/
theorem witness_ErrorEventExactlyOnDeath : ∃ t, exec (.rxDecode []) (ready 0) = .next t ∧
    newOutputs (ready 0) t = [.event (.onError .rx .shortPacket), .response ⟨.shortPacket, []⟩] := ⟨_, rfl, rfl⟩
theorem witness_TxInitOutcomes : (ready 0).tx.status ≠ .unconfigured ∧ State.reset.tx.status = .unconfigured ∧
    (List.replicate 31 0#8).length ≠ 32 ∧ (List.replicate 17 0#8).length ≠ 16 ∧ k1.toList.length = 32 ∧ iv1.toList.length = 16 :=
  ⟨by decide, rfl, by decide, by decide, rfl, rfl⟩
theorem witness_RxInitOutcomes : dead.rx.status ≠ .unconfigured ∧ State.reset.rx.status = .unconfigured ∧
    (List.replicate 33 0#8).length ≠ 32 ∧ ([] : Bytes).length ≠ 16 ∧ k1.toList.length = 32 ∧ iv1.toList.length = 16 :=
  ⟨by decide, rfl, by decide, by decide, rfl, rfl⟩
/-- The largest usable counter value, 2^64 - 2 (V-CTR-2). -/
theorem witness_TxEncodeDelivers : (ready (2 ^ 64 - 2)).tx.status = .ready ∧ admitted (ready 0).limits.maxPayload [0x61#8] ∧
    (ready (2 ^ 64 - 2)).tx.ctr ≠ BitVec.allOnes 64 ∧ (ready (2 ^ 64 - 2)).txEnv.faults.headD false = false :=
  ⟨rfl, ⟨by decide, fun m h => by cases h⟩, by decide, rfl⟩
/-- V-DEC-20. -/
theorem witness_RxDecodeDelivers : (ready 0).rx.status = .ready ∧ admitted (ready 0).limits.maxWire wire20 ∧
    (ready 0).rx.ctr ≠ BitVec.allOnes 64 ∧ (ready 0).rxEnv.faults.headD false = false ∧
    pkt20 = (cfb8Dec aes256 (ready 0).rx.key (ready 0).rx.shift wire20).1 ∧ 8 ≤ wire20.length ∧
    [0x03#8, 0x00#8] = pkt20.take (wire20.length - 8) ∧
    pkt20.drop (wire20.length - 8) =
      (sha256 (leBytes 8 (ready 0).rx.ctr.toNat ++ [0x03#8, 0x00#8] ++ (ready 0).rx.key.toList)).take 8 ∧
    inflate [0x03#8, 0x00#8] = some [] ∧ ∀ m, (ready 0).limits.maxInflate = some m → ([] : Bytes).length ≤ m :=
  ⟨rfl, ⟨by decide, fun m h => by cases h⟩, by decide, rfl, test_wires.1.symm, by decide, rfl, test_tags.1.symm,
    test_inflate_empty, fun m h => by cases h⟩
theorem witness_CounterOverflowEntry : (ready (2 ^ 64 - 1)).tx.status = .ready ∧ (ready (2 ^ 64 - 1)).rx.status = .ready ∧
    admitted (ready 0).limits.maxPayload [] ∧ admitted (ready 0).limits.maxWire wire20 ∧
    (ready (2 ^ 64 - 1)).tx.ctr = BitVec.allOnes 64 ∧ (ready (2 ^ 64 - 1)).rx.ctr = BitVec.allOnes 64 ∧
    (ready (2 ^ 64 - 1)).rxEnv.faults.headD false = false :=
  ⟨rfl, rfl, ⟨by decide, fun m h => by cases h⟩, ⟨by decide, fun m h => by cases h⟩, rfl, rfl, rfl⟩
theorem witness_CipherErrorEntry :
    let s : State := { ready 5 with txEnv := { faults := [true], draws := 0 }, rxEnv := { faults := [true, false], draws := 3 } }
    s.tx.status = .ready ∧ s.rx.status = .ready ∧ admitted s.limits.maxPayload [] ∧ admitted s.limits.maxWire [] ∧
      s.tx.ctr ≠ BitVec.allOnes 64 ∧ s.txEnv.faults.headD false = true ∧ s.rxEnv.faults.headD false = true :=
  ⟨rfl, rfl, ⟨by decide, fun m h => by cases h⟩, ⟨by decide, fun m h => by cases h⟩, by decide, rfl, rfl⟩
/-- V-DEC-13 and V-DEC-15: no byte and seven bytes. -/
theorem witness_ShortPacketEntry : ∀ w ∈ [([] : Bytes), List.replicate 7 0#8], (ready 0).rx.status = .ready ∧
    admitted (ready 0).limits.maxWire w ∧ w.length < 8 ∧ (ready 0).rx.ctr ≠ BitVec.allOnes 64 ∧
    (ready 0).rxEnv.faults.headD false = false := by
  intro w hw
  simp only [List.mem_cons, List.not_mem_nil, or_false] at hw
  rcases hw with rfl | rfl <;> exact ⟨rfl, ⟨by decide, fun m h => by cases h⟩, by decide, by decide, rfl⟩
/-- V-DEC-20's wire bytes at counter 1: the tag is that of counter 0. -/
theorem witness_ChecksumMismatchEntry : (ready 1).rx.status = .ready ∧ admitted (ready 1).limits.maxWire wire20 ∧
    (ready 1).rx.ctr ≠ BitVec.allOnes 64 ∧ (ready 1).rxEnv.faults.headD false = false ∧ 8 ≤ wire20.length ∧
    pkt20 = (cfb8Dec aes256 (ready 1).rx.key (ready 1).rx.shift wire20).1 ∧
    pkt20.drop (wire20.length - 8) ≠ (sha256 (leBytes 8 (ready 1).rx.ctr.toNat ++ pkt20.take (wire20.length - 8) ++
      (ready 1).rx.key.toList)).take 8 :=
  ⟨rfl, ⟨by decide, fun m h => by cases h⟩, by decide, rfl, by decide, test_wires.1.symm, fun h => test_tags.2.2.2 h.symm⟩
/-- V-DEC-16: eight bytes, a matching tag over the empty string. -/
theorem witness_CompressionErrorEntry : (ready 0).rx.status = .ready ∧ admitted (ready 0).limits.maxWire wire16 ∧
    (ready 0).rx.ctr ≠ BitVec.allOnes 64 ∧ (ready 0).rxEnv.faults.headD false = false ∧ 8 ≤ wire16.length ∧
    pkt16 = (cfb8Dec aes256 (ready 0).rx.key (ready 0).rx.shift wire16).1 ∧ [] = pkt16.take (wire16.length - 8) ∧
    pkt16.drop (wire16.length - 8) = (sha256 (leBytes 8 (ready 0).rx.ctr.toNat ++ [] ++ (ready 0).rx.key.toList)).take 8 ∧
    ∀ p, inflate [] = some p → ∃ m, (ready 0).limits.maxInflate = some m ∧ m < p.length :=
  ⟨rfl, ⟨by decide, fun m h => by cases h⟩, by decide, rfl, by decide, test_wires.2.symm, rfl, test_tags.2.1.symm,
    fun p h => by cases h⟩
theorem witness_IllegalStateExactlyWhere : (ready 0).tx.status ≠ .unconfigured ∧ dead.rx.status ≠ .unconfigured ∧
    State.reset.tx.status ≠ .ready ∧ dead.rx.status ≠ .ready ∧
    ∃ t, exec (.txEncode []) State.reset = .next t ∧ .response ⟨.illegalState, []⟩ ∈ newOutputs State.reset t :=
  ⟨by decide, by decide, by decide, by decide, _, rfl, List.mem_cons_self⟩
theorem witness_OnlyOperandsOutsideSpecRefused : (ready 0).tx.status = .ready ∧ (ready 0).rx.status = .ready ∧
    exec (.txEncode [0x61#8]) { ready 0 with limits := { Limits.reset with maxPayload := some 0 } } =
      .refused .operandOutsideSpec := ⟨rfl, rfl, rfl⟩
theorem witness_TxCompressTagAppendStages : (txAt 0 (.compress [1#8])).txFlight = some (.compress [1#8]) ∧
    (txAt 0 (.tagCompute [])).txFlight = some (.tagCompute []) ∧
    (txAt 0 (.tagAppend [] [1#8])).txFlight = some (.tagAppend [] [1#8]) := ⟨rfl, rfl, rfl⟩
theorem witness_CounterStages : (txAt (2 ^ 64 - 2) (.ctrInc [])).txFlight = some (.ctrInc []) ∧
    (txAt (2 ^ 64 - 2) (.ctrInc [])).tx.ctr ≠ BitVec.allOnes 64 ∧ (txAt (2 ^ 64 - 1) (.ctrInc [])).tx.ctr = BitVec.allOnes 64 ∧
    (rxAt 0 (.ctrInc [] [] [])).rxFlight = some (.ctrInc [] [] []) ∧ (rxAt 0 .ctrIncShort).rxFlight = some .ctrIncShort ∧
    (rxAt 0 .ctrIncShort).rx.ctr ≠ BitVec.allOnes 64 ∧ rxDue .ctrIncShort = .rxCtrInc ∧
    (rxAt (2 ^ 64 - 1) .ctrIncShort).rx.ctr = BitVec.allOnes 64 :=
  ⟨rfl, by decide, rfl, rfl, rfl, by decide, rfl, rfl⟩
theorem witness_TxCipherAndEmitStages : (txAt 0 (.cipherEncrypt [1#8])).txFlight = some (.cipherEncrypt [1#8]) ∧
    (txAt 0 (.cipherEncrypt [1#8])).txEnv.faults.headD false = false ∧
    ({ txAt 0 (.cipherEncrypt []) with txEnv := { faults := [true], draws := 0 } } : State).txEnv.faults.headD false = true ∧
    (txAt 0 (.emit [])).txFlight = some (.emit []) := ⟨rfl, rfl, rfl, rfl⟩
theorem witness_RxDecryptSplitTagStages : (rxAt 0 (.cipherDecrypt [1#8])).rxFlight = some (.cipherDecrypt [1#8]) ∧
    (rxAt 0 (.cipherDecrypt [1#8])).rxEnv.faults.headD false = false ∧
    ({ rxAt 0 (.cipherDecrypt []) with rxEnv := { faults := [true], draws := 0 } } : State).rxEnv.faults.headD false = true ∧
    (rxAt 0 (.split ([] ++ pkt16))).rxFlight = some (.split ([] ++ pkt16)) ∧ pkt16.length = 8 ∧
    (List.replicate 7 0#8).length < 8 ∧ (rxAt 0 (.tagCompute [] pkt16)).rxFlight = some (.tagCompute [] pkt16) :=
  ⟨rfl, rfl, rfl, rfl, rfl, by decide, rfl⟩
theorem witness_RxCompareDecompressEmitStages : (rxAt 1 (.tagCompare [] pkt16 pkt16)).rxFlight = some (.tagCompare [] pkt16 pkt16) ∧
    pkt16 ≠ pkt16.set 7 0#8 ∧ (rxAt 1 (.decompress [0x03#8, 0x00#8])).rxFlight = some (.decompress [0x03#8, 0x00#8]) ∧
    inflate [0x03#8, 0x00#8] = some [] ∧ (∀ m, (some 0 : Option Nat) = some m → ([] : Bytes).length ≤ m) ∧
    (∀ p, inflate [] = some p → ∃ m, (none : Option Nat) = some m ∧ m < p.length) ∧
    (rxAt 1 (.emit [])).rxFlight = some (.emit []) :=
  ⟨rfl, by decide, rfl, test_inflate_empty, fun m _ => Nat.zero_le m, fun p h => (by cases h), rfl⟩
theorem witness_StageNotDueAnswersIllegalCommand : Instr.txEmit.isCommand = false ∧
    (∀ f, (txAt 0 (.compress [])).txFlight = some f → txDue f ≠ .txEmit) ∧
    (∀ f, (txAt 0 (.compress [])).rxFlight = some f → rxDue f ≠ .txEmit) :=
  ⟨rfl, fun f h => (by cases h; decide), fun f h => by cases h⟩
theorem witness_CommandIsItsStagesInOrder : (ready 0).tx.status = .ready ∧ (ready 0).txFlight = none ∧
    (ready 0).rx.status = .ready ∧ admitted (ready 0).limits.maxPayload [0x61#8] ∧ admitted (ready 0).limits.maxWire wire20 :=
  ⟨rfl, rfl, rfl, ⟨by decide, fun m h => by cases h⟩, ⟨by decide, fun m h => by cases h⟩⟩
theorem witness_ReadCountersResult : State.reset.Inv ∧ State.reset.tx.status = .unconfigured ∧
    State.reset.rx.status = .unconfigured :=
  ⟨⟨rfl, rfl, fun o h => (by cases h), fun h => absurd rfl h, fun h => absurd rfl h⟩, rfl, rfl⟩
theorem witness_ReadStatusResult : (sent [0x30#8] (ready 0)).Inv := ready_inv
theorem witness_CounterMovesByAtMostOne : Instr.rdTxStatus.isCommand = true ∧
    (∃ t, exec .rdTxStatus (ready 0) = .next t ∧ (t.dir .tx).status = .ready) ∧
    (∃ t, exec (.txEncode [0x61#8]) (ready 0) = .next t) ∧ ¬ closes .tx (.txEncode [0x61#8]) ∧
    ¬ configures .tx (.txEncode [0x61#8]) ∧ ((ready 0).dir .tx).status = .ready := by
  refine ⟨rfl, ⟨_, rfl, rfl⟩, witness_EncodedEventExactlyOnOk, ?_, ?_, rfl⟩
  · rintro (h | ⟨_, h⟩ | ⟨_, h⟩) <;> cases h
  · rintro (⟨_, _, _, h⟩ | ⟨_, _, _, h⟩) <;> cases h
theorem witness_StatusTransitions : ∃ t, exec (.txInit k1.toList iv1.toList) State.reset = .next t ∧
    (t.dir .tx).status ≠ (State.reset.dir .tx).status := ⟨_, rfl, by decide⟩
theorem witness_DeadUntilClosed : (dead.dir .rx).status = .dead ∧ (∃ t, exec (.rxDecode []) dead = .next t) ∧
    ¬ closes .rx (.rxDecode []) := by
  refine ⟨rfl, ⟨_, rfl⟩, ?_⟩
  rintro (h | ⟨_, h⟩ | ⟨_, h⟩) <;> cases h
theorem witness_KeyFixedWhileConfigured : ((ready 0).dir .rx).status ≠ .unconfigured ∧
    (∃ t, exec (.rxDecode []) (ready 0) = .next t) ∧ ¬ closes .rx (.rxDecode []) :=
  ⟨by decide, ⟨_, rfl⟩, witness_DeadUntilClosed.2.2⟩
theorem witness_DirectionsIndependent : ofTx (.txEncode [0x61#8]) = true ∧ (∃ t, exec (.txEncode [0x61#8]) (ready 0) = .next t) ∧
    ofRx (.rxDecode []) = true ∧ (∃ t, exec (.rxDecode []) (ready 0) = .next t) :=
  ⟨rfl, witness_EncodedEventExactlyOnOk, rfl, _, rfl⟩
theorem witness_OneDirectionBlindToTheOther : ofTx .rdSendCtr = true ∧ ofRx (.rxDecode []) = true ∧
    ({ ready 0 with rx := deadDir 2#4 } : State).tx = (ready 0).tx ∧ ({ ready 0 with tx := deadDir 4#4 } : State).rx = (ready 0).rx ∧
    (∃ t, exec .rdSendCtr (ready 0) = .next t) ∧ ∃ t, exec (.rxDecode []) (ready 0) = .next t :=
  ⟨rfl, rfl, rfl, rfl, ⟨_, rfl⟩, _, rfl⟩
theorem witness_CommandsCommute : ofTx .txClose = true ∧ ofRx (.rxDecode []) = true ∧
    ∃ a b, exec .txClose (ready 0) = .next a ∧ exec (.rxDecode []) a = .next b := ⟨rfl, rfl, _, _, rfl, rfl⟩
theorem witness_KeysNeverAnswered : Instr.rdMonStatus.isCommand = true ∧ (∀ p, Instr.rdMonStatus ≠ .txEncode p) ∧
    (∀ w, Instr.rdMonStatus ≠ .rxDecode w) ∧ ∃ t, exec .rdMonStatus (ready 0) = .next t :=
  ⟨rfl, fun p h => (by cases h), fun w h => (by cases h), _, rfl⟩
theorem witness_CfbChunksAndLength : ∃ x s1 y s2, cfb8Enc (fun _ b => b) k1 iv1 [1#8] = (x, s1) ∧
    cfb8Enc (fun _ b => b) k1 s1 [2#8, 3#8] = (y, s2) := ⟨_, _, _, _, rfl, rfl⟩
theorem witness_CfbErrorExtent : 0 < ([7#8] : Bytes).length ∧ ([7#8] : Bytes).length + 17 ≤ 18 := by decide
theorem witness_SboxIsAffineOfInverse : (0x53#8 : Byte) ≠ 0#8 := by decide
theorem witness_CompressObeysItsLaw : compress [0x61#8] = compress [0x61#8] := rfl
theorem witness_InflateOutputBounded : inflate [0x03#8, 0x00#8] = some [] := test_inflate_empty
theorem witness_TrailingOrMissingBytesRejected : inflate [0x03#8, 0x00#8] = some [] ∧ ([0x00#8] : Bytes) ≠ [] ∧
    1 < ([0x03#8, 0x00#8] : Bytes).length := ⟨test_inflate_empty, by decide, by decide⟩
theorem witness_RoundTrip : State.reset.tx.status = .unconfigured ∧ State.reset.rx.status = .unconfigured ∧
    k1.toList.length = 32 ∧ iv1.toList.length = 16 ∧ State.reset.txEnv.faults = [] ∧ State.reset.rxEnv.faults = [] ∧
    State.reset.limits.maxPayload = none ∧ State.reset.limits = Limits.reset ∧
    (∀ p ∈ [([] : Bytes), [0x61#8]], p.length < 2 ^ 60) ∧ ([[], [0x61#8]] : List Bytes).length < 2 ^ 64 :=
  ⟨rfl, rfl, rfl, rfl, rfl, rfl, rfl, rfl, by decide, by decide⟩
theorem witness_AlteredTagAlwaysMismatches : (ready 0).rx.status = .ready ∧
    admitted (ready 0).limits.maxWire (wire20.take 2 ++ wire16) ∧ (ready 0).rx.ctr ≠ BitVec.allOnes 64 ∧
    (ready 0).rxEnv.faults.headD false = false ∧ (wire20.drop 2).length = 8 ∧ wire16.length = 8 ∧ wire16 ≠ wire20.drop 2 ∧
    pkt20 = (decryptBytes (ready 0).rx.key (ready 0).rx.shift (wire20.take 2 ++ wire20.drop 2)).1 ∧
    pkt20.drop (wire20.take 2).length = tag (pkt20.take (wire20.take 2).length) (ready 0).rx.ctr (ready 0).rx.key :=
  ⟨rfl, ⟨by decide, fun m h => by cases h⟩, by decide, rfl, rfl, rfl, by decide, test_wires.1.symm, test_tags.1.symm⟩

end Sys2Proof.Machine.Slice0Tests
end

section
/-! Which instructions can be refused (00_scope.md R5, R6). Every stage and every command but TX_ENCODE and RX_DECODE answers a next state in every state; those two are refused on a READY direction for an operand outside the spec, and for nothing else. -/

namespace Sys2Proof.Machine

theorem withinSpec_eq_false_iff (bound : Option Nat) (b : Bytes) :
    withinSpec bound b = false ↔ ¬ admitted bound b := by
  rw [← withinSpec_iff_admitted, Bool.not_eq_true]

/-- A stage is turned away or runs on its latch, and each of its outcomes is a next state: a fatal error too (60_exceptions.md R256). -/
theorem exec_stage_answers (i : Instr) (s : State) (hi : i.isCommand = false) : ∃ t, exec i s = .next t := by
  cases i <;> simp only [Instr.isCommand, Bool.true_eq_false] at hi
  -- one outcome where the stage is due
  case txCompress | txTagCompute | txTagAppend | txEmit | rxTagCompute | rxEmit =>
    simp only [exec, execTxCompress, execTxTagCompute, execTxTagAppend, execTxEmit, execRxTagCompute, execRxEmit]
    split <;> exact ⟨_, rfl⟩
  -- two outcomes where the stage is due
  case txCtrInc | txCipherEncrypt | rxCipherDecrypt | rxSplit | rxTagCompare | rxDecompress =>
    simp only [exec, execTxCtrInc, execTxCipherEncrypt, execRxCipherDecrypt, execRxSplit, execRxTagCompare,
      execRxDecompress]
    split
    · split <;> exact ⟨_, rfl⟩
    · exact ⟨_, rfl⟩
  -- due on two latches (45_counter_monitor_and_control.md R222), two outcomes on each
  case rxCtrInc =>
    simp only [exec, execRxCtrInc]
    split
    · split <;> exact ⟨_, rfl⟩
    · split <;> exact ⟨_, rfl⟩
    · exact ⟨_, rfl⟩

theorem execTxEncode_answers_or_refuses (s : State) (payload : Bytes) :
    (∃ t, execTxEncode payload s = .next t) ∨
    (s.tx.status = .ready ∧ ¬ admitted s.limits.maxPayload payload ∧
      execTxEncode payload s = .refused .operandOutsideSpec) := by
  rcases execTxEncode_cases s payload with
    ⟨_, hnext⟩ | ⟨hready, hout, href⟩ | ⟨_, _, hnext⟩ | ⟨_, _, hnext⟩ | ⟨_, _, _, _, hnext⟩
  case inr.inl => exact .inr ⟨hready, (withinSpec_eq_false_iff _ _).mp hout, href⟩
  all_goals exact .inl ⟨_, hnext⟩

theorem execRxDecode_answers_or_refuses (s : State) (wire : Bytes) :
    (∃ t, execRxDecode wire s = .next t) ∨
    (s.rx.status = .ready ∧ ¬ admitted s.limits.maxWire wire ∧
      execRxDecode wire s = .refused .operandOutsideSpec) := by
  rcases execRxDecode_cases s wire with
    ⟨_, hnext⟩ | ⟨hready, hout, href⟩ | ⟨_, hnext⟩ | ⟨_, _, hnext⟩ | ⟨_, _, _, _, hnext⟩ | ⟨_, _, _, hnext⟩
  case inr.inl => exact .inr ⟨hready, (withinSpec_eq_false_iff _ _).mp hout, href⟩
  all_goals exact .inl ⟨_, hnext⟩

/-- When an instruction meets the one refusal: TX_ENCODE or RX_DECODE, its direction READY, its operand outside the spec. -/
def operandRefused (i : Instr) (s : State) : Prop :=
  (∃ payload, i = .txEncode payload ∧ s.tx.status = .ready ∧ ¬ admitted s.limits.maxPayload payload) ∨
  (∃ wire, i = .rxDecode wire ∧ s.rx.status = .ready ∧ ¬ admitted s.limits.maxWire wire)

/-- Everything `exec` can answer, by kind: a next state, or the one refusal where it is due. -/
theorem exec_answers_or_refuses (i : Instr) (s : State) :
    (∃ t, exec i s = .next t) ∨ (operandRefused i s ∧ exec i s = .refused .operandOutsideSpec) := by
  cases hi : i.isCommand with
  | false => exact .inl (exec_stage_answers i s hi)
  | true =>
    cases i <;> simp only [Instr.isCommand, Bool.false_eq_true] at hi
    case txEncode payload =>
      exact (execTxEncode_answers_or_refuses s payload).imp_right
        fun ⟨hready, hout, href⟩ => ⟨.inl ⟨payload, rfl, hready, hout⟩, href⟩
    case rxDecode wire =>
      exact (execRxDecode_answers_or_refuses s wire).imp_right
        fun ⟨hready, hout, href⟩ => ⟨.inr ⟨wire, rfl, hready, hout⟩, href⟩
    all_goals exact .inl ⟨_, rfl⟩

theorem exec_of_operandRefused (i : Instr) (s : State) (h : operandRefused i s) :
    exec i s = .refused .operandOutsideSpec := by
  obtain ⟨payload, rfl, hready, hout⟩ | ⟨wire, rfl, hready, hout⟩ := h
  · exact execTxEncode_refused s payload hready ((withinSpec_eq_false_iff _ _).mpr hout)
  · exact execRxDecode_refused s wire hready ((withinSpec_eq_false_iff _ _).mpr hout)

theorem exec_refused_iff (i : Instr) (s : State) (r : Refusal) :
    exec i s = .refused r ↔ operandRefused i s ∧ r = .operandOutsideSpec := by
  constructor
  · intro h
    rcases exec_answers_or_refuses i s with ⟨t, hnext⟩ | ⟨hop, href⟩
    · rw [hnext] at h
      cases h
    · rw [href] at h
      cases h
      exact ⟨hop, rfl⟩
  · rintro ⟨hop, rfl⟩
    exact exec_of_operandRefused i s hop

theorem operandRefused_txEncode_iff (s : State) (payload : Bytes) (h : s.tx.status = .ready) :
    operandRefused (.txEncode payload) s ↔ ¬ admitted s.limits.maxPayload payload := by
  simp [operandRefused, h]

theorem operandRefused_rxDecode_iff (s : State) (wire : Bytes) (h : s.rx.status = .ready) :
    operandRefused (.rxDecode wire) s ↔ ¬ admitted s.limits.maxWire wire := by
  simp [operandRefused, h]

/-- Settles O31: `exec` answers a next state or the one refusal, and the refusal exactly where the operand is outside the spec on a READY direction. -/
theorem onlyOperandsOutsideSpecRefused : Obligations.OnlyOperandsOutsideSpecRefused := by
  unfold Obligations.OnlyOperandsOutsideSpecRefused
  refine ⟨fun s payload hready => ?_, fun s wire hready => ?_, fun i s => ?_, fun i s r href => ?_⟩
  · rw [exec_refused_iff, operandRefused_txEncode_iff s payload hready]
    simp
  · rw [exec_refused_iff, operandRefused_rxDecode_iff s wire hready]
    simp
  · exact (exec_answers_or_refuses i s).imp_right And.right
  · obtain ⟨hop, -⟩ := (exec_refused_iff i s r).mp href
    exact hop.imp (fun ⟨payload, hi, hready, _⟩ => ⟨payload, hi, hready⟩)
      (fun ⟨wire, hi, hready, _⟩ => ⟨wire, hi, hready⟩)

end Sys2Proof.Machine
end

section
/-! What an instruction does to one direction (10_state.md R15, R16, R24): the five moves of a direction's record, the outputs it adds, and from these the invariant, the transitions of a status and the life of a key. -/

namespace Sys2Proof.Machine

/-- The latch of a direction holds a packet. -/
def State.inFlight (s : State) : Side → Prop
  | .tx => s.txFlight ≠ none
  | .rx => s.rxFlight ≠ none

@[simp] theorem inFlight_tx (s : State) : s.inFlight .tx ↔ s.txFlight ≠ none := Iff.rfl
@[simp] theorem inFlight_rx (s : State) : s.inFlight .rx ↔ s.rxFlight ≠ none := Iff.rfl

theorem atRest_iff (s : State) : s.atRest ↔ ∀ d, ¬ s.inFlight d := by
  constructor
  · rintro ⟨htx, hrx⟩ (_ | _) <;> simp [htx, hrx]
  · intro h
    exact ⟨by simpa using h .tx, by simpa using h .rx⟩

/-- One direction's share of the invariant: its record (10_state.md R25) and its latch (60_exceptions.md R277). -/
def State.sideGood (s : State) (d : Side) : Prop :=
  (s.dir d).good d ∧ (s.inFlight d → (s.dir d).status = .ready)

theorem inv_iff (s : State) : s.Inv ↔ (∀ d, s.sideGood d) ∧ ∀ o ∈ s.out, o.good := by
  constructor
  · rintro ⟨htx, hrx, hout, hftx, hfrx⟩
    exact ⟨fun d => by cases d <;> constructor <;> assumption, hout⟩
  · rintro ⟨hside, hout⟩
    obtain ⟨htx, hftx⟩ := hside .tx
    obtain ⟨hrx, hfrx⟩ := hside .rx
    exact ⟨htx, hrx, hout, hftx, hfrx⟩

/-- What an instruction can run on: a command on a READY direction, a stage on a latch that holds a packet. -/
def runsOn (i : Instr) (d : Side) (s : State) : Prop :=
  if i.isCommand then (s.dir d).status = .ready else s.inFlight d

theorem runsOn.ready {i : Instr} {d : Side} {s : State} (h : runsOn i d s) (hs : s.sideGood d) :
    (s.dir d).status = .ready := by
  unfold runsOn at h
  split at h
  · exact h
  · exact hs.2 h

/-- The five things an instruction can do to one direction. -/
inductive DirMove (i : Instr) (d : Side) (s t : State) : Prop
  /-- Nothing. -/
  | kept (hdir : t.dir d = s.dir d) (hflight : t.inFlight d → s.inFlight d)
  /-- A successful `*_INIT`. -/
  | configured (hi : configures d i) (hfrom : (s.dir d).status = .unconfigured)
      (hstatus : (t.dir d).status = .ready) (herr : (t.dir d).err = 0#4) (hflight : t.inFlight d → s.inFlight d)
  /-- A close or RESET. -/
  | closed (hi : closes d i) (hdir : t.dir d = Dir.reset) (hflight : ¬ t.inFlight d)
  /-- Work on a packet: the counter and the shift register may move. -/
  | worked (hruns : runsOn i d s) (hstatus : (t.dir d).status = (s.dir d).status) (herr : (t.dir d).err = (s.dir d).err)
      (hkey : (t.dir d).key = (s.dir d).key) (hflight : t.inFlight d → s.inFlight d)
  /-- A fatal error (60_exceptions.md R256). -/
  | died (hruns : runsOn i d s) (hstatus : (t.dir d).status = .dead) (herr : (t.dir d).err ∈ deathCodes d)
      (hkey : (t.dir d).key = (s.dir d).key) (hflight : ¬ t.inFlight d)
      (hevent : i.isCommand = true → ∃ c, .event (.onError d c) ∈ newOutputs s t)

theorem DirMove.inFlight_of_inFlight {i : Instr} {d : Side} {s t : State} (h : DirMove i d s t)
    (ht : t.inFlight d) : s.inFlight d := by
  cases h with
  | kept _ hflight => exact hflight ht
  | configured _ _ _ _ hflight => exact hflight ht
  | closed _ _ hflight => exact absurd ht hflight
  | worked _ _ _ _ hflight => exact hflight ht
  | died _ _ _ _ hflight _ => exact absurd ht hflight

theorem Dir.good_of_ready {d : Side} {x : Dir} (hstatus : x.status = .ready) (herr : x.err = 0#4) : x.good d := by
  simpa [Dir.good, hstatus] using herr

theorem Dir.good_of_dead {d : Side} {x : Dir} (hstatus : x.status = .dead) (herr : x.err ∈ deathCodes d) :
    x.good d := by
  simpa [Dir.good, hstatus] using herr

theorem Dir.good.err_of_ready {d : Side} {x : Dir} (h : x.good d) (hstatus : x.status = .ready) : x.err = 0#4 := by
  simpa [Dir.good, hstatus] using h

theorem Dir.good_reset (d : Side) : Dir.reset.good d := rfl

theorem DirMove.keeps_sideGood {i : Instr} {d : Side} {s t : State} (h : DirMove i d s t) (hs : s.sideGood d) :
    t.sideGood d := by
  cases h with
  | kept hdir hflight => exact ⟨hdir ▸ hs.1, fun hf => hdir ▸ hs.2 (hflight hf)⟩
  | configured _ _ hstatus herr _ => exact ⟨Dir.good_of_ready hstatus herr, fun _ => hstatus⟩
  | closed _ hdir hflight => exact ⟨hdir ▸ Dir.good_reset d, fun hf => absurd hf hflight⟩
  | worked hruns hstatus herr _ _ =>
    have hready := hstatus.trans (hruns.ready hs)
    have herr0 := herr.trans (hs.1.err_of_ready (hruns.ready hs))
    exact ⟨Dir.good_of_ready hready herr0, fun _ => hready⟩
  | died _ hstatus herr _ hflight _ => exact ⟨Dir.good_of_dead hstatus herr, fun hf => absurd hf hflight⟩

theorem DirMove.of_eq {i : Instr} {d : Side} {s t : State} (htx : t.tx = s.tx) (hrx : t.rx = s.rx)
    (hftx : t.txFlight = s.txFlight) (hfrx : t.rxFlight = s.rxFlight) : DirMove i d s t := by
  cases d
  · exact .kept htx (by simp [hftx])
  · exact .kept hrx (by simp [hfrx])

theorem onError_good_tx {c : Code} (h : c ∈ [Code.counterOverflow, .cipherError]) : (Event.onError .tx c).good := by
  simp only [List.mem_cons, List.not_mem_nil, or_false] at h
  rcases h with rfl | rfl <;> exact ⟨rfl, by decide⟩

theorem onError_good_rx {c : Code}
    (h : c ∈ [Code.counterOverflow, .cipherError, .shortPacket, .checksumMismatch, .compressionError]) :
    (Event.onError .rx c).good := by
  simp only [List.mem_cons, List.not_mem_nil, or_false] at h
  rcases h with rfl | rfl | rfl | rfl | rfl <;> exact ⟨rfl, by decide⟩

theorem Event.good.nibble_mem {d : Side} {c : Code} (h : (Event.onError d c).good) : c.nibble ∈ deathCodes d := h.2

theorem runsOn_stage {i : Instr} {d : Side} {s : State} (hi : i.isCommand = false) (h : s.inFlight d) :
    runsOn i d s := by
  simpa [runsOn, hi] using h

theorem runsOn_command {i : Instr} {d : Side} {s : State} (hi : i.isCommand = true) :
    runsOn i d s ↔ (s.dir d).status = .ready := by
  simp [runsOn, hi]

theorem exec_command_dirMove (i : Instr) (d : Side) (s t : State) (hi : i.isCommand = true)
    (h : exec i s = .next t) : DirMove i d s t := by
  rcases exec_command_cases i s t hi h with ⟨rfl, rfl⟩ | ⟨rfl, rfl⟩ | ⟨rfl, rfl⟩ | ⟨b, _, rfl⟩ | ⟨c, _, rfl⟩ | ⟨c, _, rfl⟩ |
    ⟨k, v, hconf, hun, rfl⟩ | ⟨k, v, hconf, hun, rfl⟩ |
    ⟨p, rfl, hready, ⟨c, n, v, e, hc, _, rfl⟩ | ⟨v, e, w, _, rfl⟩⟩ |
    ⟨p, rfl, hready, ⟨c, n, v, e, hc, _, rfl⟩ | ⟨v, e, w, _, rfl⟩⟩
  · cases d <;> exact .closed (.inl rfl) rfl (by simp)
  · cases d
    · exact .closed (.inr (.inl ⟨rfl, rfl⟩)) rfl (by simp)
    · exact .kept rfl id
  · cases d
    · exact .kept rfl id
    · exact .closed (.inr (.inr ⟨rfl, rfl⟩)) rfl (by simp)
  · exact .of_eq rfl rfl rfl rfl
  · exact .of_eq rfl rfl rfl rfl
  · exact .of_eq rfl rfl rfl rfl
  · cases d
    · exact .configured hconf hun rfl rfl id
    · exact .kept rfl id
  · cases d
    · exact .kept rfl id
    · exact .configured hconf hun rfl rfl id
  · cases d
    · exact .died hready rfl (onError_good_tx hc).nibble_mem rfl (by simp) (fun _ => ⟨c, by simp [newOutputs]⟩)
    · exact .kept rfl id
  · cases d
    · exact .worked hready rfl rfl rfl (by simp)
    · exact .kept rfl id
  · cases d
    · exact .kept rfl id
    · exact .died hready rfl (onError_good_rx hc).nibble_mem rfl (by simp) (fun _ => ⟨c, by simp [newOutputs]⟩)
  · cases d
    · exact .kept rfl id
    · exact .worked hready rfl rfl rfl (by simp)

theorem exec_stage_dirMove (i : Instr) (d : Side) (s t : State) (hi : i.isCommand = false)
    (h : exec i s = .next t) : DirMove i d s t := by
  rcases stage_side i hi with hx | hx
  · rcases exec_txStage_cases i s t hi hx h with rfl | ⟨hf, x, f, e, l, rfl, hkey, hmove, _, _, _⟩
    · exact .of_eq rfl rfl rfl rfl
    cases d with
    | rx => exact .kept rfl id
    | tx =>
      rcases hmove with ⟨hstatus, herr⟩ | ⟨hstatus, herr, rfl⟩
      · exact .worked (runsOn_stage hi hf) hstatus herr hkey (fun _ => hf)
      · exact .died (runsOn_stage hi hf) hstatus herr hkey (by simp) (by simp [hi])
  · rcases exec_rxStage_cases i s t hi hx h with rfl | ⟨hf, x, f, e, l, rfl, hkey, hmove, _, _, _⟩
    · exact .of_eq rfl rfl rfl rfl
    cases d with
    | tx => exact .kept rfl id
    | rx =>
      rcases hmove with ⟨hstatus, herr⟩ | ⟨hstatus, herr, rfl⟩
      · exact .worked (runsOn_stage hi hf) hstatus herr hkey (fun _ => hf)
      · exact .died (runsOn_stage hi hf) hstatus herr hkey (by simp) (by simp [hi])

/-- Every instruction makes one of the five moves in each direction. -/
theorem exec_dirMove (i : Instr) (d : Side) (s t : State) (h : exec i s = .next t) : DirMove i d s t := by
  cases hi : i.isCommand
  · exact exec_stage_dirMove i d s t hi h
  · exact exec_command_dirMove i d s t hi h

/-! The outputs an instruction adds. -/

/-- The instructions of a direction (20_memory.md R49 (a)). -/
def ofSide : Side → Instr → Bool
  | .tx => ofTx
  | .rx => ofRx

theorem ofRx_eq_false_of_ofTx (i : Instr) (h : ofTx i = true) : ofRx i = false := by
  cases i <;> simp [ofTx, ofRx] at h ⊢

theorem ofSide_unique {i : Instr} {d d' : Side} (h : ofSide d i = true) (h' : ofSide d' i = true) : d = d' := by
  cases d <;> cases d'
  case tx.tx | rx.rx => rfl
  case tx.rx => exact absurd h' (by simp [ofSide, ofRx_eq_false_of_ofTx i h])
  case rx.tx => exact absurd h (by simp [ofSide, ofRx_eq_false_of_ofTx i h'])

/-- The outputs `new` are legal, and their events belong to the direction whose instruction `i` is. -/
def legalFor (i : Instr) (new : List Output) : Prop :=
  (∀ o ∈ new, o.good) ∧ ∀ d, ofSide d i = true → ∀ e, .event e ∈ new → e.side = d

theorem legalFor_of_side {i : Instr} {d : Side} {new : List Output} (hi : ofSide d i = true)
    (hgood : ∀ o ∈ new, o.good) (hside : ∀ o ∈ new, ∀ e, o = .event e → e.side = d) : legalFor i new :=
  ⟨hgood, fun _ hd' e he => (hside _ he e rfl).trans (ofSide_unique hi hd')⟩

theorem legalFor_response (i : Instr) {c : Code} {data : Bytes} (h : c ≠ .ok → data = []) :
    legalFor i [.response ⟨c, data⟩] := by
  simpa [legalFor, Output.good] using h

theorem legalFor_event_response {i : Instr} {d : Side} {e : Event} {c : Code} {data : Bytes}
    (hi : ofSide d i = true) (hgood : e.good) (hside : e.side = d) (h : c ≠ .ok → data = []) :
    legalFor i [.event e, .response ⟨c, data⟩] :=
  legalFor_of_side hi (by simpa [Output.good] using ⟨hgood, h⟩) (by simpa using hside)

theorem exec_command_appends (i : Instr) (s t : State) (hi : i.isCommand = true) (h : exec i s = .next t) :
    ∃ new, t.out = s.out ++ new ∧ legalFor i new := by
  rcases exec_command_cases i s t hi h with ⟨_, rfl⟩ | ⟨_, rfl⟩ | ⟨_, rfl⟩ | ⟨b, _, rfl⟩ | ⟨c, _, rfl⟩ | ⟨c, _, rfl⟩ |
    ⟨k, v, _, _, rfl⟩ | ⟨k, v, _, _, rfl⟩ |
    ⟨p, rfl, _, ⟨c, n, v, e, hc, _, rfl⟩ | ⟨v, e, w, _, rfl⟩⟩ |
    ⟨p, rfl, _, ⟨c, n, v, e, hc, _, rfl⟩ | ⟨v, e, w, _, rfl⟩⟩
  -- a close, a read-out, a rejection, a `*_INIT`: a response alone
  iterate 8 exact ⟨_, rfl, legalFor_response i (by simp)⟩
  · exact ⟨_, rfl, legalFor_event_response (d := .tx) rfl (onError_good_tx hc) rfl (by simp)⟩
  · exact ⟨_, rfl, legalFor_event_response (d := .tx) rfl trivial rfl (by simp)⟩
  · exact ⟨_, rfl, legalFor_event_response (d := .rx) rfl (onError_good_rx hc) rfl (by simp)⟩
  · exact ⟨_, rfl, legalFor_event_response (d := .rx) rfl trivial rfl (by simp)⟩

theorem exec_stage_appends (i : Instr) (s t : State) (hi : i.isCommand = false) (h : exec i s = .next t) :
    ∃ new, t.out = s.out ++ new ∧ legalFor i new := by
  rcases stage_side i hi with hx | hx
  · rcases exec_txStage_cases i s t hi hx h with rfl | ⟨_, x, f, e, l, rfl, _, _, hgood, hside, _⟩
    · exact ⟨_, rfl, legalFor_response i (by simp)⟩
    · exact ⟨l, rfl, legalFor_of_side (d := .tx) hx hgood hside⟩
  · rcases exec_rxStage_cases i s t hi hx h with rfl | ⟨_, x, f, e, l, rfl, _, _, hgood, hside, _⟩
    · exact ⟨_, rfl, legalFor_response i (by simp)⟩
    · exact ⟨l, rfl, legalFor_of_side (d := .rx) hx hgood hside⟩

/-- Every instruction only appends, legal outputs, whose events belong to its own direction. -/
theorem exec_appends (i : Instr) (s t : State) (h : exec i s = .next t) :
    ∃ new, t.out = s.out ++ new ∧ legalFor i new := by
  cases hi : i.isCommand
  · exact exec_stage_appends i s t hi h
  · exact exec_command_appends i s t hi h

/-- What a step's next state is: what an instruction makes of the state (the port aside, which the step may have
shortened), the state itself, the answer to the reset input, or the answer to bytes that are no command. -/
theorem step_cases (s t : State) (h : step s = .next t) :
    (∃ i port, exec i { s with port := port } = .next t) ∨ t = s ∨
    (∃ tail, s.port = .resetInput :: tail ∧ t = answerResetInput { s with port := tail }) ∨
    (∃ port, t = illegalCommand { s with port := port }) := by
  unfold step at h
  split at h
  · exact .inl ⟨_, s.port, h⟩
  · exact .inl ⟨_, s.port, h⟩
  · cases h
    exact .inr (.inl rfl)
  next tail _ _ hport =>
    cases h
    exact .inr (.inr (.inl ⟨tail, hport, rfl⟩))
  · unfold stepFrame at h
    split at h
    · exact .inl ⟨_, _, h⟩
    · cases h
      exact .inr (.inr (.inr ⟨_, rfl⟩))
    · cases h
      exact .inr (.inr (.inr ⟨_, rfl⟩))

/-! The invariant. -/

theorem inv_setPort (s : State) (port : List PortInput) : State.Inv { s with port := port } ↔ s.Inv := Iff.rfl

theorem inv_answerResetInput (s : State) : (answerResetInput s).Inv :=
  ⟨rfl, rfl, by simp [answerResetInput_eq, Output.good], by simp [flightsGood, answerResetInput_eq]⟩

theorem inv_illegalCommand (s : State) (h : s.Inv) : (illegalCommand s).Inv := by
  obtain ⟨htx, hrx, hout, hflights⟩ := h
  refine ⟨htx, hrx, ?_, hflights⟩
  simpa [illegalCommand_eq, or_imp, forall_and, Output.good] using hout

theorem exec_keeps_inv (i : Instr) (s t : State) (hs : s.Inv) (h : exec i s = .next t) : t.Inv := by
  obtain ⟨hsides, hout⟩ := (inv_iff s).mp hs
  obtain ⟨new, hnew, hgood, -⟩ := exec_appends i s t h
  refine (inv_iff t).mpr ⟨fun d => (exec_dirMove i d s t h).keeps_sideGood (hsides d), fun o ho => ?_⟩
  rw [hnew, List.mem_append] at ho
  exact ho.elim (hout o) (hgood o)

/-- Settles O12: whatever a step does, it executes an instruction, idles, resets or rejects, and each keeps the invariant. -/
theorem stepKeepsInvariant : Obligations.StepKeepsInvariant := by
  intro s t hs h
  rcases step_cases s t h with ⟨i, port, hexec⟩ | rfl | ⟨tail, _, rfl⟩ | ⟨port, rfl⟩
  · exact exec_keeps_inv i _ t ((inv_setPort s port).mpr hs) hexec
  · exact hs
  · exact inv_answerResetInput _
  · exact inv_illegalCommand _ ((inv_setPort s port).mpr hs)

/-- Settles O10: both directions are at their reset values with nothing in flight, and nothing has been output. -/
theorem resetStateMeetsInvariant : Obligations.ResetStateMeetsInvariant :=
  (inv_iff _).mpr ⟨fun d => by cases d <;> exact ⟨rfl, by simp⟩, by simp⟩

/-- A command leaves nothing in flight that was not in flight before it, and a stage is due only on a packet in flight. -/
theorem exec_keeps_atRest (i : Instr) (s t : State) (hs : s.atRest) (h : exec i s = .next t) : t.atRest := by
  rw [atRest_iff] at hs ⊢
  exact fun d ht => hs d ((exec_dirMove i d s t h).inFlight_of_inFlight ht)

/-- Settles O13: no instruction puts a packet in flight where none was. -/
theorem stepLeavesNothingInFlight : Obligations.StepLeavesNothingInFlight := by
  intro s t hs h
  rcases step_cases s t h with ⟨i, port, hexec⟩ | rfl | ⟨tail, _, rfl⟩ | ⟨port, rfl⟩
  · exact exec_keeps_atRest i { s with port := port } t hs hexec
  · exact hs
  · exact ⟨rfl, rfl⟩
  · exact hs

/-- Settles O14: `exec` appends, and no step but the reset input empties the outputs. -/
theorem outputOnlyGrows : Obligations.OutputOnlyGrows := by
  refine ⟨fun i s t h => ?_, fun s t h hport => ?_⟩
  · obtain ⟨new, hnew, -⟩ := exec_appends i s t h
    exact ⟨new, hnew, by simp [State.trace, hnew]⟩
  · rcases step_cases s t h with ⟨i, port, hexec⟩ | rfl | ⟨tail, hreset, _⟩ | ⟨port, rfl⟩
    · obtain ⟨new, hnew, -⟩ := exec_appends i _ t hexec
      exact ⟨new, hnew⟩
    · exact ⟨[], (List.append_nil _).symm⟩
    · exact absurd hreset (hport tail)
    · exact ⟨_, rfl⟩

/-! The life of a direction. -/

/-- Settles O42, by the five moves of a direction. -/
theorem statusTransitions : Obligations.StatusTransitions := by
  intro i s t d hi h hne
  cases exec_dirMove i d s t h with
  | kept hdir _ => exact absurd (congrArg Dir.status hdir) hne
  | configured hconf hfrom hstatus _ _ => exact .inl ⟨hfrom, hstatus, hconf⟩
  | closed hclose hdir _ => exact .inr (.inr ⟨congrArg Dir.status hdir, hclose⟩)
  | worked _ hstatus _ _ _ => exact absurd hstatus hne
  | died hruns hstatus _ _ _ hevent =>
    exact .inr (.inl ⟨(runsOn_command hi).mp hruns, hstatus, hevent hi⟩)

/-- Settles O44, by the five moves of a direction. -/
theorem keyFixedWhileConfigured : Obligations.KeyFixedWhileConfigured := by
  intro i s t d hconfigured h hopen
  cases exec_dirMove i d s t h with
  | kept hdir _ => exact congrArg Dir.key hdir
  | configured _ hfrom _ _ _ => exact absurd hfrom hconfigured
  | closed hclose _ _ => exact absurd hclose hopen
  | worked _ _ _ hkey _ => exact hkey
  | died _ _ _ hkey _ _ => exact hkey

end Sys2Proof.Machine
end

section
/-! The shift register after a string (10_state.md R25 (e), 44_rx_decode.md R210). -/

namespace Sys2Proof.Machine

theorem cfb8Enc_shift (E : Key → Block → Block) (key : Key) (s : Block) (p : Bytes) :
    (cfb8Enc E key s p).2 = lastSixteen (s.toList ++ (cfb8Enc E key s p).1) := by
  induction p generalizing s with
  | nil => simp [lastSixteen_self]
  | cons x xs ih =>
    rw [cfb8Enc_cons, ih, lastSixteen_shiftIn]

theorem cfb8Dec_shift (E : Key → Block → Block) (key : Key) (s : Block) (c : Bytes) :
    (cfb8Dec E key s c).2 = lastSixteen (s.toList ++ c) := by
  induction c generalizing s with
  | nil => simp [lastSixteen_self]
  | cons x xs ih =>
    rw [cfb8Dec_cons, ih, lastSixteen_shiftIn]

/-- Settles O51, by induction on the string in each direction. -/
theorem shiftHoldsLastSixteen : Obligations.ShiftHoldsLastSixteen :=
  fun E key s p => ⟨cfb8Enc_shift E key s p, cfb8Dec_shift E key s p⟩

end Sys2Proof.Machine
end

section
/-! An instruction of one direction sees and changes that direction alone (10_state.md R10): `exec` on a state is `exec` on what the direction can see of it, put back into the state. -/

namespace Sys2Proof.Machine

/-- What an instruction of a direction can see: its record, latch and environment, and the bounds; all else at its reset value. -/
def State.view (s : State) : Side → State
  | .tx => { State.reset with tx := s.tx, txFlight := s.txFlight, txEnv := s.txEnv, limits := s.limits }
  | .rx => { State.reset with rx := s.rx, rxFlight := s.rxFlight, rxEnv := s.rxEnv, limits := s.limits }

/-- `s` with one direction as it is in `u`, and the outputs of `u` behind its own. -/
def State.graft (s : State) : Side → State → State
  | .tx, u => { s with tx := u.tx, txFlight := u.txFlight, txEnv := u.txEnv, out := s.out ++ u.out }
  | .rx, u => { s with rx := u.rx, rxFlight := u.rxFlight, rxEnv := u.rxEnv, out := s.out ++ u.out }

/-- `graft` on what an instruction answers; a refusal stays as it is. -/
def graftOutcome (s : State) (d : Side) : Host.Outcome State Fault Refusal → Host.Outcome State Fault Refusal
  | .next u => .next (s.graft d u)
  | .fault r => .fault r
  | .refused r => .refused r

/-- `f` on a state is `f` on one direction's view of it, put back. -/
def localTo (d : Side) (f : State → Host.Outcome State Fault Refusal) : Prop :=
  ∀ s, f s = graftOutcome s d (f (s.view d))

@[simp] theorem view_tx_tx (s : State) : (s.view .tx).tx = s.tx := rfl
@[simp] theorem view_tx_txFlight (s : State) : (s.view .tx).txFlight = s.txFlight := rfl
@[simp] theorem view_tx_txEnv (s : State) : (s.view .tx).txEnv = s.txEnv := rfl
@[simp] theorem view_rx_rx (s : State) : (s.view .rx).rx = s.rx := rfl
@[simp] theorem view_rx_rxFlight (s : State) : (s.view .rx).rxFlight = s.rxFlight := rfl
@[simp] theorem view_rx_rxEnv (s : State) : (s.view .rx).rxEnv = s.rxEnv := rfl
@[simp] theorem view_limits (s : State) (d : Side) : (s.view d).limits = s.limits := by cases d <;> rfl
@[simp] theorem view_out (s : State) (d : Side) : (s.view d).out = [] := by cases d <;> rfl

@[simp] theorem graftOutcome_next (s u : State) (d : Side) : graftOutcome s d (.next u) = .next (s.graft d u) := rfl

theorem graft_tx (s u : State) : s.graft .tx u =
    { s with tx := u.tx, txFlight := u.txFlight, txEnv := u.txEnv, out := s.out ++ u.out } := rfl
theorem graft_rx (s u : State) : s.graft .rx u =
    { s with rx := u.rx, rxFlight := u.rxFlight, rxEnv := u.rxEnv, out := s.out ++ u.out } := rfl

theorem cipherFault_view (s : State) (d : Side) : cipherFault d (s.view d) = cipherFault d s := by cases d <;> rfl

/-! The stages, each on its own datapath. -/

theorem execTxCompress_local : localTo .tx execTxCompress := by
  intro s
  simp only [execTxCompress, view_tx_txFlight]
  split <;> simp [graft_tx, stageNotDue_eq]

theorem execTxTagCompute_local : localTo .tx execTxTagCompute := by
  intro s
  simp only [execTxTagCompute, view_tx_txFlight]
  split <;> simp [graft_tx, stageNotDue_eq]

theorem execTxTagAppend_local : localTo .tx execTxTagAppend := by
  intro s
  simp only [execTxTagAppend, view_tx_txFlight]
  split <;> simp [graft_tx, stageNotDue_eq]

theorem execTxCtrInc_local : localTo .tx execTxCtrInc := by
  intro s
  simp only [execTxCtrInc, view_tx_txFlight]
  split
  · by_cases hmax : s.tx.ctr = Ctr.max
    · simp [incCtr_tx_max, hmax, graft_tx, raiseFatal_tx]
    · simp [incCtr_tx_next s hmax, incCtr_tx_next (s.view .tx) hmax, graft_tx]
  · simp [graft_tx, stageNotDue_eq]

theorem execTxCipherEncrypt_local : localTo .tx execTxCipherEncrypt := by
  intro s
  simp only [execTxCipherEncrypt, view_tx_txFlight, cipherFault_view]
  split
  · by_cases hf : cipherFault .tx s <;> simp [hf, consumeFault, graft_tx, raiseCipherError_tx]
  · simp [graft_tx, stageNotDue_eq]

theorem execTxEmit_local : localTo .tx execTxEmit := by
  intro s
  simp only [execTxEmit, view_tx_txFlight]
  split <;> simp [graft_tx, stageNotDue_eq, State.dropFlight, State.emit, State.respond]

theorem execRxCipherDecrypt_local : localTo .rx execRxCipherDecrypt := by
  intro s
  simp only [execRxCipherDecrypt, view_rx_rxFlight, cipherFault_view]
  split
  · by_cases hf : cipherFault .rx s <;> simp [hf, consumeFault, graft_rx, raiseCipherError_rx]
  · simp [graft_rx, stageNotDue_eq]

theorem execRxSplit_local : localTo .rx execRxSplit := by
  intro s
  simp only [execRxSplit, view_rx_rxFlight]
  split
  · split <;> simp [graft_rx]
  · simp [graft_rx, stageNotDue_eq]

theorem execRxTagCompute_local : localTo .rx execRxTagCompute := by
  intro s
  simp only [execRxTagCompute, view_rx_rxFlight]
  split <;> simp [graft_rx, stageNotDue_eq]

theorem execRxCtrInc_local : localTo .rx execRxCtrInc := by
  intro s
  simp only [execRxCtrInc, view_rx_rxFlight]
  by_cases hmax : s.rx.ctr = Ctr.max
  · split <;> simp [incCtr_rx_max, hmax, graft_rx, raiseFatal_rx, stageNotDue_eq]
  · split <;> simp [incCtr_rx_next s hmax, incCtr_rx_next (s.view .rx) hmax, graft_rx, raiseFatal_rx, stageNotDue_eq]

theorem execRxTagCompare_local : localTo .rx execRxTagCompare := by
  intro s
  simp only [execRxTagCompare, view_rx_rxFlight]
  split
  · split <;> simp [graft_rx, raiseFatal_rx]
  · simp [graft_rx, stageNotDue_eq]

theorem execRxDecompress_local : localTo .rx execRxDecompress := by
  intro s
  simp only [execRxDecompress, view_rx_rxFlight, view_limits]
  split
  · split <;> simp [graft_rx, raiseFatal_rx]
  · simp [graft_rx, stageNotDue_eq]

theorem execRxEmit_local : localTo .rx execRxEmit := by
  intro s
  simp only [execRxEmit, view_rx_rxFlight]
  split <;> simp [graft_rx, stageNotDue_eq, State.dropFlight, State.emit, State.respond]

/-! Running the stages. -/

theorem txStage_local (f : TxFlight) : localTo .tx (txStage f) := by
  cases f with
  | compress _ => exact execTxCompress_local
  | tagCompute _ => exact execTxTagCompute_local
  | tagAppend _ _ => exact execTxTagAppend_local
  | ctrInc _ => exact execTxCtrInc_local
  | cipherEncrypt _ => exact execTxCipherEncrypt_local
  | emit _ => exact execTxEmit_local

theorem rxStage_local (f : RxFlight) : localTo .rx (rxStage f) := by
  cases f with
  | cipherDecrypt _ => exact execRxCipherDecrypt_local
  | split _ => exact execRxSplit_local
  | tagCompute _ _ => exact execRxTagCompute_local
  | ctrInc _ _ _ | ctrIncShort => exact execRxCtrInc_local
  | tagCompare _ _ _ => exact execRxTagCompare_local
  | decompress _ => exact execRxDecompress_local
  | emit _ => exact execRxEmit_local

theorem isCommand_txDue (f : TxFlight) : (txDue f).isCommand = false := by cases f <;> rfl

theorem isCommand_rxDue (f : RxFlight) : (rxDue f).isCommand = false := by cases f <;> rfl

theorem exec_stage_limits (i : Instr) (s t : State) (hi : i.isCommand = false) (h : exec i s = .next t) :
    t.limits = s.limits := by
  rcases stage_side i hi with hx | hx
  · rcases exec_txStage_cases i s t hi hx h with rfl | ⟨_, _, _, _, _, rfl, _⟩ <;> rfl
  · rcases exec_rxStage_cases i s t hi hx h with rfl | ⟨_, _, _, _, _, rfl, _⟩ <;> rfl

theorem txStage_answers (f : TxFlight) (s : State) : ∃ t, txStage f s = .next t ∧ t.limits = s.limits := by
  obtain ⟨t, ht⟩ := exec_stage_answers (txDue f) s (isCommand_txDue f)
  exact ⟨t, exec_txDue f s ▸ ht, exec_stage_limits _ s t (isCommand_txDue f) ht⟩

theorem rxStage_answers (f : RxFlight) (s : State) : ∃ t, rxStage f s = .next t ∧ t.limits = s.limits := by
  obtain ⟨t, ht⟩ := exec_stage_answers (rxDue f) s (isCommand_rxDue f)
  exact ⟨t, exec_rxDue f s ▸ ht, exec_stage_limits _ s t (isCommand_rxDue f) ht⟩

@[simp] theorem graft_view (s : State) (d : Side) : s.graft d (s.view d) = s := by
  cases d <;> simp [graft_tx, graft_rx]

theorem view_graft {s u : State} (d : Side) (h : u.limits = s.limits) : (s.graft d u).view d = u.view d := by
  cases d <;> simp [State.view, State.graft, h]

theorem graftOutcome_graftOutcome (s u : State) (d : Side) (o : Host.Outcome State Fault Refusal) :
    graftOutcome s d (graftOutcome u d o) = graftOutcome (s.graft d u) d o := by
  cases o with
  | next v => cases d <;> simp [State.graft]
  | fault r => rfl
  | refused r => rfl

theorem runTxStages_local (n : Nat) : localTo .tx (runTxStages n) := by
  induction n with
  | zero => intro s; simp
  | succ n ih =>
    intro s
    cases hf : s.txFlight with
    | none => simp [runTxStages_done, hf]
    | some f =>
      obtain ⟨u, hu, hlimits⟩ := txStage_answers f (s.view .tx)
      have hs : txStage f s = .next (s.graft .tx u) := by rw [txStage_local f s, hu, graftOutcome_next]
      calc runTxStages (n + 1) s
        _ = runTxStages n (s.graft .tx u) := runTxStages_next n s _ f hf hs
        _ = graftOutcome (s.graft .tx u) .tx (runTxStages n (u.view .tx)) := by
            rw [ih (s.graft .tx u), view_graft .tx (hlimits.trans (view_limits s .tx))]
        _ = graftOutcome s .tx (runTxStages n u) := by rw [ih u, graftOutcome_graftOutcome]
        _ = graftOutcome s .tx (runTxStages (n + 1) (s.view .tx)) := by rw [runTxStages_next n (s.view .tx) u f hf hu]

theorem runRxStages_local (n : Nat) : localTo .rx (runRxStages n) := by
  induction n with
  | zero => intro s; simp
  | succ n ih =>
    intro s
    cases hf : s.rxFlight with
    | none => simp [runRxStages_done, hf]
    | some f =>
      obtain ⟨u, hu, hlimits⟩ := rxStage_answers f (s.view .rx)
      have hs : rxStage f s = .next (s.graft .rx u) := by rw [rxStage_local f s, hu, graftOutcome_next]
      calc runRxStages (n + 1) s
        _ = runRxStages n (s.graft .rx u) := runRxStages_next n s _ f hf hs
        _ = graftOutcome (s.graft .rx u) .rx (runRxStages n (u.view .rx)) := by
            rw [ih (s.graft .rx u), view_graft .rx (hlimits.trans (view_limits s .rx))]
        _ = graftOutcome s .rx (runRxStages n u) := by rw [ih u, graftOutcome_graftOutcome]
        _ = graftOutcome s .rx (runRxStages (n + 1) (s.view .rx)) := by rw [runRxStages_next n (s.view .rx) u f hf hu]

/-! The commands. -/

theorem graftOutcome_setTxFlight (s : State) (f : Option TxFlight) (o : Host.Outcome State Fault Refusal) :
    graftOutcome { s with txFlight := f } .tx o = graftOutcome s .tx o := by cases o <;> rfl

theorem graftOutcome_setRxFlight (s : State) (f : Option RxFlight) (o : Host.Outcome State Fault Refusal) :
    graftOutcome { s with rxFlight := f } .rx o = graftOutcome s .rx o := by cases o <;> rfl

theorem execTxEncode_local (payload : Bytes) : localTo .tx (execTxEncode payload) := by
  intro s
  simp only [execTxEncode, view_tx_tx, view_limits]
  split
  · simp [graft_tx, reject_eq]
  · split
    · rfl
    · exact (runTxStages_local 6 { s with txFlight := some (.compress payload) }).trans (graftOutcome_setTxFlight s _ _)

theorem execRxDecode_local (wire : Bytes) : localTo .rx (execRxDecode wire) := by
  intro s
  simp only [execRxDecode, view_rx_rx, view_limits]
  split
  · simp [graft_rx, reject_eq]
  · split
    · rfl
    · exact (runRxStages_local 7 { s with rxFlight := some (.cipherDecrypt wire) }).trans (graftOutcome_setRxFlight s _ _)

@[simp] theorem dir_view (s : State) (d : Side) : (s.view d).dir d = s.dir d := by cases d <;> rfl

theorem graft_reject_view (s : State) (d : Side) (c : Code) : s.graft d (reject c (s.view d)) = reject c s := by
  cases d <;> rfl

theorem graft_configured_view (s : State) (d : Side) (x : Dir) (c : Code) (data : Bytes) :
    s.graft d (((s.view d).setDir d x).respond c data) = (s.setDir d x).respond c data := by
  cases d <;> rfl

theorem initDir_local (d : Side) (key iv : Bytes) : localTo d (fun s => .next (initDir d key iv s)) := by
  intro s
  by_cases hs : (s.dir d).status = .unconfigured
  · cases hk : loadKey key <;> cases hv : loadIv iv <;>
      simp [initDir, hs, hk, hv, graft_reject_view, graft_configured_view]
  · simp [initDir, hs, graft_reject_view]

theorem exec_local_tx (i : Instr) (hi : ofTx i = true) : localTo .tx (exec i) := by
  cases i <;> simp only [ofTx, Bool.false_eq_true] at hi
  case txInit key iv => exact initDir_local .tx key iv
  case txEncode payload => exact execTxEncode_local payload
  case txClose | rdTxStatus | rdSendCtr => exact fun s => rfl
  case txCompress => exact execTxCompress_local
  case txTagCompute => exact execTxTagCompute_local
  case txTagAppend => exact execTxTagAppend_local
  case txCtrInc => exact execTxCtrInc_local
  case txCipherEncrypt => exact execTxCipherEncrypt_local
  case txEmit => exact execTxEmit_local

theorem exec_local_rx (i : Instr) (hi : ofRx i = true) : localTo .rx (exec i) := by
  cases i <;> simp only [ofRx, Bool.false_eq_true] at hi
  case rxInit key iv => exact initDir_local .rx key iv
  case rxDecode wire => exact execRxDecode_local wire
  case rxClose | rdRxStatus | rdRecvCtr => exact fun s => rfl
  case rxCipherDecrypt => exact execRxCipherDecrypt_local
  case rxSplit => exact execRxSplit_local
  case rxTagCompute => exact execRxTagCompute_local
  case rxCtrInc => exact execRxCtrInc_local
  case rxTagCompare => exact execRxTagCompare_local
  case rxDecompress => exact execRxDecompress_local
  case rxEmit => exact execRxEmit_local

/-- An instruction of a direction is its own effect on the direction's view, put back into the state. -/
theorem exec_local (i : Instr) (d : Side) (hi : ofSide d i = true) : localTo d (exec i) := by
  cases d
  · exact exec_local_tx i hi
  · exact exec_local_rx i hi

theorem exec_next_of_view (i : Instr) (d : Side) (s t : State) (hi : ofSide d i = true) (h : exec i s = .next t) :
    ∃ u, exec i (s.view d) = .next u ∧ t = s.graft d u := by
  rw [exec_local i d hi s] at h
  cases hu : exec i (s.view d) with
  | next u =>
    rw [hu, graftOutcome_next] at h
    cases h
    exact ⟨u, rfl, rfl⟩
  | fault r => simp [hu, graftOutcome] at h
  | refused r => simp [hu, graftOutcome] at h

/-! The other direction's trace. -/

theorem traceOf_append (s t : State) (d : Side) (new : List Output) (h : t.out = s.out ++ new) :
    t.traceOf d = s.traceOf d ++ (new.filterMap Output.event?).filter (fun e => e.side == d) := by
  simp [State.traceOf, State.trace, h]

theorem mem_filterMap_event? (e : Event) (new : List Output) :
    e ∈ new.filterMap Output.event? ↔ .event e ∈ new := by
  constructor
  · intro he
    obtain ⟨o, ho, hoe⟩ := List.mem_filterMap.mp he
    cases o with
    | event e' => cases hoe; exact ho
    | response r => cases hoe
  · exact fun he => List.mem_filterMap.mpr ⟨_, he, rfl⟩

theorem exec_other_traceOf (i : Instr) (d d' : Side) (s t : State) (hi : ofSide d i = true) (hd : d ≠ d')
    (h : exec i s = .next t) : t.traceOf d' = s.traceOf d' := by
  obtain ⟨new, hnew, -, hside⟩ := exec_appends i s t h
  have hnone : (new.filterMap Output.event?).filter (fun e => e.side == d') = [] := by
    refine List.filter_eq_nil_iff.mpr fun e he => ?_
    simpa [hside d hi e ((mem_filterMap_event? e new).mp he)] using hd
  rw [traceOf_append s t d' new hnew, hnone, List.append_nil]

/-- Settles O45: what an instruction makes of its own direction's view is put back, and nothing else. -/
theorem directionsIndependent : Obligations.DirectionsIndependent := by
  refine ⟨fun i s t hi h => ?_, fun i s t hi h => ?_⟩
  · have htrace := exec_other_traceOf i .tx .rx s t hi (by decide) h
    obtain ⟨u, -, rfl⟩ := exec_next_of_view i .tx s t hi h
    exact ⟨rfl, rfl, rfl, rfl, rfl, htrace⟩
  · have htrace := exec_other_traceOf i .rx .tx s t hi (by decide) h
    obtain ⟨u, -, rfl⟩ := exec_next_of_view i .rx s t hi h
    exact ⟨rfl, rfl, rfl, rfl, rfl, htrace⟩

@[simp] theorem newOutputs_graft (s u : State) (d : Side) : newOutputs s (s.graft d u) = u.out :=
  newOutputs_of_append _ _ _ (by cases d <;> rfl)

/-- States that look the same to a direction: its instruction grafts one and the same effect onto both. -/
theorem exec_same_view (i : Instr) (d : Side) (s s' t : State) (hi : ofSide d i = true) (hview : s'.view d = s.view d)
    (h : exec i s = .next t) : ∃ u, exec i s' = .next (s'.graft d u) ∧ t = s.graft d u := by
  obtain ⟨u, hu, rfl⟩ := exec_next_of_view i d s t hi h
  exact ⟨u, by rw [exec_local i d hi s', hview, hu, graftOutcome_next], rfl⟩

/-- Settles O46: two states that agree on what the direction sees have the same view. -/
theorem oneDirectionBlindToTheOther : Obligations.OneDirectionBlindToTheOther := by
  refine ⟨fun i s s' t hi hdir hflight henv hlimits h => ?_, fun i s s' t hi hdir hflight henv hlimits h => ?_⟩
  · have hview : s'.view .tx = s.view .tx := by simp [State.view, hdir, hflight, henv, hlimits]
    obtain ⟨u, hs', rfl⟩ := exec_same_view i .tx s s' t hi hview h
    exact ⟨_, hs', rfl, rfl, rfl, by rw [newOutputs_graft, newOutputs_graft]⟩
  · have hview : s'.view .rx = s.view .rx := by simp [State.view, hdir, hflight, henv, hlimits]
    obtain ⟨u, hs', rfl⟩ := exec_same_view i .rx s s' t hi hview h
    exact ⟨_, hs', rfl, rfl, rfl, by rw [newOutputs_graft, newOutputs_graft]⟩

end Sys2Proof.Machine
end

section
/-! A TX instruction and an RX instruction commute (20_memory.md R49 (b)): what one direction grafts onto the state is not in the other direction's view. -/

namespace Sys2Proof.Machine

theorem view_graft_other (s u : State) {d d' : Side} (hd : d ≠ d') : (s.graft d u).view d' = s.view d' := by
  cases d <;> cases d'
  case tx.tx | rx.rx => exact absurd rfl hd
  case tx.rx | rx.tx => rfl

theorem graft_comm_but_out (s u v : State) {d d' : Side} (hd : d ≠ d') :
    { (s.graft d' v).graft d u with out := ((s.graft d u).graft d' v).out } = (s.graft d u).graft d' v := by
  cases d <;> cases d'
  case tx.tx | rx.rx => exact absurd rfl hd
  case tx.rx | rx.tx => rfl

theorem traceOf_graft (s u : State) (d d' : Side) :
    (s.graft d u).traceOf d' = s.traceOf d' ++ (u.out.filterMap Output.event?).filter (fun e => e.side == d') :=
  traceOf_append _ _ _ _ (by cases d <;> rfl)

/-- What a direction adds to its own trace is the same before and after an instruction of the other direction. -/
theorem traceOf_graft_after_other (i : Instr) (d d' : Side) (s t u : State) (hi : ofSide d i = true) (hd : d ≠ d')
    (h : exec i s = .next t) : (t.graft d' u).traceOf d' = (s.graft d' u).traceOf d' := by
  rw [traceOf_graft, traceOf_graft, exec_other_traceOf i d d' s t hi hd h]

/-- Either order grafts the same two effects, each onto its own direction. -/
theorem exec_swap (i j : Instr) (d d' : Side) (s a b : State) (hi : ofSide d i = true) (hj : ofSide d' j = true)
    (hd : d ≠ d') (ha : exec i s = .next a) (hb : exec j a = .next b) :
    ∃ u v, a = s.graft d u ∧ b = a.graft d' v ∧
      exec j s = .next (s.graft d' v) ∧ exec i (s.graft d' v) = .next ((s.graft d' v).graft d u) := by
  obtain ⟨u, hu, rfl⟩ := exec_next_of_view i d s a hi ha
  obtain ⟨v, hjs, rfl⟩ := exec_same_view j d' _ s b hj (view_graft_other s u hd).symm hb
  refine ⟨u, v, rfl, rfl, hjs, ?_⟩
  rw [exec_local i d hi, view_graft_other s v hd.symm, hu, graftOutcome_next]

/-- Settles O47: the two effects are grafted onto different fields, and each adds events of its own direction alone. -/
theorem commandsCommute : Obligations.CommandsCommute := by
  intro i j s a b hi hj ha hb
  have hd : Side.tx ≠ Side.rx := by decide
  obtain ⟨u, v, rfl, rfl, hc, he⟩ := exec_swap i j .tx .rx s a b hi hj hd ha hb
  refine ⟨_, _, hc, he, graft_comm_but_out s u v hd, ?_, ?_, ?_, ?_⟩
  · rw [newOutputs_graft, newOutputs_graft]
  · rw [newOutputs_graft, newOutputs_graft]
  · rw [traceOf_graft_after_other j .rx .tx s _ u hj hd.symm hc, exec_other_traceOf j .rx .tx _ _ hj hd.symm hb]
  · rw [exec_other_traceOf i .tx .rx _ _ hi hd he, traceOf_graft_after_other i .tx .rx s _ v hi hd ha]

end Sys2Proof.Machine
end

section
/-! The frames of the command port (30_encoding.md R60 to R68): an operand, a command, an illegal opcode byte, each read back exactly where the bytes hold it. From these the round trip of encoder and decoder, the cut frames, and what a step does with a transmission. -/

namespace Sys2Proof.Machine

/-! Little-endian length fields and operands. -/

theorem fromLE_lt (bs : Bytes) : fromLE bs < 256 ^ bs.length := by
  induction bs with
  | nil => simp [fromLE]
  | cons b bs ih =>
    have hb := b.isLt
    rw [fromLE, List.length_cons, pow_succ]
    omega

/-- Writing back what `fromLE` read. -/
theorem leBytes_fromLE (bs : Bytes) : leBytes bs.length (fromLE bs) = bs := by
  induction bs with
  | nil => rfl
  | cons b bs ih =>
    have hlow : BitVec.ofNat 8 (b.toNat + 256 * fromLE bs) = b :=
      BitVec.eq_of_toNat_eq (by have := b.isLt; rw [BitVec.toNat_ofNat]; omega)
    have hhigh : (b.toNat + 256 * fromLE bs) / 256 = fromLE bs := by have := b.isLt; omega
    rw [List.length_cons, leBytes, fromLE, hlow, hhigh, ih]

/-- The reader takes an operand exactly where the bytes begin with its frame. -/
theorem takeOperand_eq_some_iff (bs a rest : Bytes) :
    takeOperand bs = some (a, rest) ↔ a.length < 2 ^ 32 ∧ bs = encodeOperand a ++ rest := by
  constructor
  · intro h
    unfold takeOperand at h
    split at h
    next b0 b1 b2 b3 tail =>
      simp only [Option.ite_none_right_eq_some, Option.some.injEq, Prod.mk.injEq] at h
      obtain ⟨hle, rfl, rfl⟩ := h
      have hlen : (tail.take (fromLE [b0, b1, b2, b3])).length = fromLE [b0, b1, b2, b3] :=
        List.length_take_of_le hle
      refine ⟨hlen.trans_lt (lt_of_lt_of_eq (fromLE_lt [b0, b1, b2, b3]) (by norm_num)), ?_⟩
      have hfield : leBytes 4 (fromLE [b0, b1, b2, b3]) = [b0, b1, b2, b3] := leBytes_fromLE [b0, b1, b2, b3]
      simp [encodeOperand, hlen, hfield]
    · cases h
  · rintro ⟨hlen, rfl⟩
    exact takeOperand_encodeOperand a rest hlen

theorem decodeOne_eq_command_iff (f : Bytes → Instr) (bs : Bytes) (i : Instr) (rest : Bytes) :
    decodeOne f bs = .command i rest ↔ ∃ a, a.length < 2 ^ 32 ∧ f a = i ∧ bs = encodeOperand a ++ rest := by
  constructor
  · intro h
    unfold decodeOne at h
    split at h
    next a tail ha =>
      cases h
      obtain ⟨hlen, hbs⟩ := (takeOperand_eq_some_iff bs a rest).mp ha
      exact ⟨a, hlen, rfl, hbs⟩
    · cases h
  · rintro ⟨a, hlen, rfl, rfl⟩
    simp [decodeOne, takeOperand_encodeOperand a rest hlen]

theorem decodeTwo_eq_command_iff (f : Bytes → Bytes → Instr) (bs : Bytes) (i : Instr) (rest : Bytes) :
    decodeTwo f bs = .command i rest ↔
      ∃ a b, a.length < 2 ^ 32 ∧ b.length < 2 ^ 32 ∧ f a b = i ∧
        bs = encodeOperand a ++ (encodeOperand b ++ rest) := by
  constructor
  · intro h
    have hone : ∃ a, a.length < 2 ^ 32 ∧ ∃ tail,
        bs = encodeOperand a ++ tail ∧ decodeOne (f a) tail = .command i rest := by
      unfold decodeTwo at h
      split at h
      next a tail ha =>
        obtain ⟨hlen, hbs⟩ := (takeOperand_eq_some_iff bs a tail).mp ha
        exact ⟨a, hlen, tail, hbs, h⟩
      · cases h
    obtain ⟨a, ha, tail, rfl, htail⟩ := hone
    obtain ⟨b, hb, hi, rfl⟩ := (decodeOne_eq_command_iff (f a) tail i rest).mp htail
    exact ⟨a, b, ha, hb, hi, rfl⟩
  · rintro ⟨a, b, ha, hb, rfl, rfl⟩
    simp [decodeTwo, takeOperand_encodeOperand a _ ha, takeOperand_encodeOperand b rest hb]

theorem decodeOne_ne_illegal (f : Bytes → Instr) (bs : Bytes) (op : Byte) (rest : Bytes) :
    decodeOne f bs ≠ .illegal op rest := by
  unfold decodeOne
  split <;> simp

theorem decodeTwo_ne_illegal (f : Bytes → Bytes → Instr) (bs : Bytes) (op : Byte) (rest : Bytes) :
    decodeTwo f bs ≠ .illegal op rest := by
  unfold decodeTwo
  split
  · exact decodeOne_ne_illegal (f _) _ op rest
  · simp

/-! Commands. -/

@[simp] theorem encode_reset : encode .reset = [0x00#8] := rfl
@[simp] theorem encode_txInit (key iv : Bytes) :
    encode (.txInit key iv) = 0x10#8 :: (encodeOperand key ++ encodeOperand iv) := by
  simp [encode, Instr.opcode, Instr.operands]
@[simp] theorem encode_txEncode (payload : Bytes) : encode (.txEncode payload) = 0x11#8 :: encodeOperand payload := by
  simp [encode, Instr.opcode, Instr.operands]
@[simp] theorem encode_txClose : encode .txClose = [0x1F#8] := rfl
@[simp] theorem encode_rxInit (key iv : Bytes) :
    encode (.rxInit key iv) = 0x20#8 :: (encodeOperand key ++ encodeOperand iv) := by
  simp [encode, Instr.opcode, Instr.operands]
@[simp] theorem encode_rxDecode (wire : Bytes) : encode (.rxDecode wire) = 0x21#8 :: encodeOperand wire := by
  simp [encode, Instr.opcode, Instr.operands]
@[simp] theorem encode_rxClose : encode .rxClose = [0x2F#8] := rfl
@[simp] theorem encode_rdTxStatus : encode .rdTxStatus = [0x30#8] := rfl
@[simp] theorem encode_rdRxStatus : encode .rdRxStatus = [0x31#8] := rfl
@[simp] theorem encode_rdSendCtr : encode .rdSendCtr = [0x32#8] := rfl
@[simp] theorem encode_rdRecvCtr : encode .rdRecvCtr = [0x33#8] := rfl
@[simp] theorem encode_rdMonStatus : encode .rdMonStatus = [0x34#8] := rfl

/-- The decoder reads back a command frame, whatever follows it. -/
theorem decodeFrame_encode (i : Instr) (rest : Bytes) (hi : i.isCommand = true) (hwf : i.wf = true) :
    decodeFrame (encode i ++ rest) = .command i rest := by
  cases i <;> simp only [Instr.isCommand, Bool.false_eq_true] at hi
  case txInit key iv | rxInit key iv =>
    simp only [Instr.wf, Bool.and_eq_true, Operand.wf_iff] at hwf
    obtain ⟨hkey, hiv⟩ := hwf
    simp only [encode_txInit, encode_rxInit, List.cons_append, List.append_assoc]
    exact (decodeTwo_eq_command_iff _ _ _ _).mpr ⟨key, iv, hkey, hiv, rfl, rfl⟩
  case txEncode a | rxDecode a =>
    simp only [Instr.wf, Operand.wf_iff] at hwf
    simp only [encode_txEncode, encode_rxDecode, List.cons_append]
    exact (decodeOne_eq_command_iff _ _ _ _).mpr ⟨a, hwf, rfl, rfl⟩
  all_goals rfl

/-- What the decoder answers as a command is a well-formed command's frame and what follows it. -/
theorem eq_encode_of_decodeFrame (bs : Bytes) (i : Instr) (rest : Bytes) (h : decodeFrame bs = .command i rest) :
    i.isCommand = true ∧ i.wf = true ∧ bs = encode i ++ rest := by
  unfold decodeFrame at h
  split at h
  · cases h
  next op tail =>
    split at h
    -- `*_INIT`, then TX_ENCODE and RX_DECODE
    case h_2 hop | h_5 hop =>
      obtain ⟨key, iv, hkey, hiv, rfl, rfl⟩ := (decodeTwo_eq_command_iff _ _ _ _).mp h
      refine ⟨rfl, ?_, by simpa using BitVec.eq_of_toNat_eq hop⟩
      simpa only [Instr.wf, Bool.and_eq_true, Operand.wf_iff] using ⟨hkey, hiv⟩
    case h_3 hop | h_6 hop =>
      obtain ⟨a, ha, rfl, rfl⟩ := (decodeOne_eq_command_iff _ _ _ _).mp h
      exact ⟨rfl, (Operand.wf_iff a).mpr ha, by simpa using BitVec.eq_of_toNat_eq hop⟩
    case h_13 => cases h
    -- the opcodes without operands
    all_goals
      next hop =>
        cases h
        exact ⟨rfl, rfl, by simpa using BitVec.eq_of_toNat_eq hop⟩

/-- Settles O1: each command's frame is its opcode byte and its operands, and the reader takes each operand back. -/
theorem decodeOfEncodedCommand : Obligations.DecodeOfEncodedCommand := decodeFrame_encode

/-- Settles O2: of the opcode bytes the decoder knows, each reads as many operands as its command has. -/
theorem decodedFrameIsEncoding : Obligations.DecodedFrameIsEncoding := eq_encode_of_decodeFrame

/-! Illegal opcode bytes and cut frames. -/

/-- 30_encoding.md R66: the five ranges of bytes that are no opcode. -/
def illegalOpcode (n : Nat) : Prop :=
  (0x01 ≤ n ∧ n ≤ 0x0F) ∨ (0x12 ≤ n ∧ n ≤ 0x1E) ∨ (0x22 ≤ n ∧ n ≤ 0x2E) ∨ (0x35 ≤ n ∧ n ≤ 0x3F) ∨ 0x40 ≤ n

theorem decodeFrame_eq_illegal_iff (bs : Bytes) (op : Byte) (rest : Bytes) :
    decodeFrame bs = .illegal op rest ↔ bs = op :: rest ∧ illegalOpcode op.toNat := by
  unfold decodeFrame illegalOpcode
  split
  · simp
  next first tail =>
    simp only [List.cons.injEq]
    split
    case h_2 | h_5 =>
      refine iff_of_false (decodeTwo_ne_illegal _ _ op rest) ?_
      rintro ⟨⟨rfl, rfl⟩, h⟩
      omega
    case h_3 | h_6 =>
      refine iff_of_false (decodeOne_ne_illegal _ _ op rest) ?_
      rintro ⟨⟨rfl, rfl⟩, h⟩
      omega
    case h_13 =>
      simp only [Decoded.illegal.injEq]
      refine (and_iff_left_of_imp ?_).symm
      rintro ⟨rfl, rfl⟩
      simp only [imp_false] at *
      omega
    all_goals
      refine iff_of_false (by simp) ?_
      rintro ⟨⟨rfl, rfl⟩, h⟩
      omega

/-- A command frame cut short is no frame: were it one, or did it begin with an illegal byte, the whole frame
would not decode to its command with nothing left over. -/
theorem decodeFrame_take_encode (i : Instr) (k : Nat) (hi : i.isCommand = true) (hwf : i.wf = true)
    (hk : k < (encode i).length) : decodeFrame ((encode i).take k) = .malformed := by
  have hwhole : decodeFrame (encode i) = .command i [] := by simpa using decodeFrame_encode i [] hi hwf
  have hcut : (encode i).take k ++ (encode i).drop k = encode i := List.take_append_drop k _
  cases h : decodeFrame ((encode i).take k) with
  | malformed => rfl
  | command j rest =>
    obtain ⟨hj, hjwf, htake⟩ := eq_encode_of_decodeFrame _ j rest h
    rw [← hcut, htake, List.append_assoc, decodeFrame_encode j _ hj hjwf] at hwhole
    injection hwhole with _ hnil
    have hdrop : (encode i).drop k = [] := (List.append_eq_nil_iff.mp hnil).2
    exact absurd (List.drop_eq_nil_iff.mp hdrop) (by omega)
  | illegal op rest =>
    obtain ⟨htake, hop⟩ := (decodeFrame_eq_illegal_iff _ op rest).mp h
    rw [← hcut, htake, List.cons_append, (decodeFrame_eq_illegal_iff _ op _).mpr ⟨rfl, hop⟩] at hwhole
    cases hwhole

/-! What a step takes next. -/

theorem step_txDue (s : State) (f : TxFlight) (h : s.txFlight = some f) : step s = exec (txDue f) s := by
  simp [step, h]

theorem step_rxDue (s : State) (f : RxFlight) (htx : s.txFlight = none) (h : s.rxFlight = some f) :
    step s = exec (rxDue f) s := by
  simp [step, htx, h]

theorem step_idle (s : State) (hrest : s.atRest) (hport : s.port = []) : step s = .next s := by
  obtain ⟨htx, hrx⟩ := hrest
  simp [step, htx, hrx, hport]

theorem step_frame (s : State) (bytes : Bytes) (tail : List PortInput) (hrest : s.atRest)
    (hport : s.port = .frame bytes :: tail) : step s = stepFrame bytes tail s := by
  obtain ⟨htx, hrx⟩ := hrest
  simp [step, htx, hrx, hport]

theorem stepFrame_command (bytes : Bytes) (i : Instr) (rest : Bytes) (tail : List PortInput) (s : State)
    (h : decodeFrame bytes = .command i rest) :
    stepFrame bytes tail s = exec i { s with port := pushRest rest tail } := by
  simp [stepFrame, h]

theorem stepFrame_illegal (bytes : Bytes) (op : Byte) (rest : Bytes) (tail : List PortInput) (s : State)
    (h : decodeFrame bytes = .illegal op rest) :
    stepFrame bytes tail s =
      .next { s with port := pushRest rest tail, out := s.out ++ [.response ⟨.illegalCommand, []⟩] } := by
  simp [stepFrame, h, illegalCommand_eq]

theorem stepFrame_malformed (bytes : Bytes) (tail : List PortInput) (s : State) (h : decodeFrame bytes = .malformed) :
    stepFrame bytes tail s = .next { s with port := tail, out := s.out ++ [.response ⟨.illegalCommand, []⟩] } := by
  simp [stepFrame, h, illegalCommand_eq]

theorem pushRest_eq (rest : Bytes) (port : List PortInput) :
    pushRest rest port = if rest = [] then port else .frame rest :: port := by
  cases rest <;> simp [pushRest]

/-- Settles O3: by the decoder's illegal case, which is R66's five ranges. -/
theorem illegalOpcodeRejected : Obligations.IllegalOpcodeRejected := by
  refine ⟨fun op rest => ?_, fun s op rest tail hrest hport h => ?_⟩
  · rw [decodeFrame_eq_illegal_iff]
    exact and_iff_right rfl
  · rw [step_frame s _ tail hrest hport, stepFrame_illegal _ op rest tail s h]

/-- Settles O4: a cut frame is malformed, and a malformed frame is taken off the port and answered. -/
theorem truncatedFrameRejected : Obligations.TruncatedFrameRejected := by
  intro s i k tail hrest hi hwf _ hk hport
  rw [step_frame s _ tail hrest hport, stepFrame_malformed _ tail s (decodeFrame_take_encode i k hi hwf hk)]

/-- Settles O5: by the step at rest and the decoder's answer. -/
theorem stepRunsDecodedCommand : Obligations.StepRunsDecodedCommand := by
  intro s bytes i rest tail hrest hport h
  rw [step_frame s bytes tail hrest hport, stepFrame_command bytes i rest tail s h, pushRest_eq]

/-- Settles O6, one case of `step` each. -/
theorem stepRunsDueStageOrIdles : Obligations.StepRunsDueStageOrIdles :=
  ⟨step_txDue, step_rxDue, step_idle⟩

/-- Settles O8: the frames are encodings; the stage identifiers and the table words are looked up. -/
theorem specWordsDecode : Obligations.SpecWordsDecode := by
  refine ⟨decodeFrame_encode .reset [] rfl rfl, decodeFrame_encode (.txEncode [0x61#8, 0x62#8, 0x63#8]) [] rfl rfl,
    decodeFrame_encode (.rxInit [0xAA#8] [0xBB#8, 0xCC#8]) [0x33#8] rfl rfl, decodeFrame_encode .rdMonStatus [] rfl rfl,
    ?_, ?_, ?_, ?_⟩
  all_goals decide

end Sys2Proof.Machine
end

section
/-! The responses of the commands (30_encoding.md R64, 60_exceptions.md R252), and the answer to a stage that is not due. -/

namespace Sys2Proof.Machine

/-- The read-outs (30_encoding.md R62): the commands that answer with the bytes of a register. -/
def isReadOut (i : Instr) : Prop :=
  i = .rdTxStatus ∨ i = .rdRxStatus ∨ i = .rdMonStatus ∨ i = .rdSendCtr ∨ i = .rdRecvCtr

/-- 30_encoding.md R64: the data a response carries, by its status and by its command. -/
def Response.fits (r : Response) (i : Instr) : Prop :=
  (r.status ≠ .ok → r.data = []) ∧
  (i = .rdTxStatus ∨ i = .rdRxStatus ∨ i = .rdMonStatus → r.status = .ok ∧ r.data.length = 1) ∧
  (i = .rdSendCtr ∨ i = .rdRecvCtr → r.status = .ok ∧ r.data.length = 8) ∧
  (i = .reset ∨ i = .txClose ∨ i = .rxClose ∨ configures .tx i ∨ configures .rx i → r.data = [])

/-- Every command but a read-out may answer without data, with any code. -/
theorem Response.fits_empty {i : Instr} {c : Code} (hi : ¬ isReadOut i) : Response.fits ⟨c, []⟩ i := by
  unfold isReadOut at hi
  exact ⟨fun _ => rfl, fun h => absurd h (by tauto), fun h => absurd h (by tauto), fun _ => rfl⟩

theorem Response.fits_statusByte {i : Instr} {b : Byte} (hi : i = .rdTxStatus ∨ i = .rdRxStatus ∨ i = .rdMonStatus) :
    Response.fits ⟨.ok, [b]⟩ i := by
  rcases hi with rfl | rfl | rfl <;> simp [Response.fits, configures]

theorem Response.fits_ctrBytes {i : Instr} {c : Ctr} (hi : i = .rdSendCtr ∨ i = .rdRecvCtr) :
    Response.fits ⟨.ok, ctrBytes c⟩ i := by
  rcases hi with rfl | rfl <;> simp [Response.fits, configures, ctrBytes]

theorem Response.fits_txEncode {p data : Bytes} : Response.fits ⟨.ok, data⟩ (.txEncode p) := by
  simp [Response.fits, configures]

theorem Response.fits_rxDecode {p data : Bytes} : Response.fits ⟨.ok, data⟩ (.rxDecode p) := by
  simp [Response.fits, configures]

theorem not_isReadOut_of_configures {i : Instr} {d : Side} (h : configures d i) : ¬ isReadOut i := by
  rcases h with ⟨_, key, iv, rfl⟩ | ⟨_, key, iv, rfl⟩ <;> simp [isReadOut]

theorem not_isReadOut_txEncode (p : Bytes) : ¬ isReadOut (.txEncode p) := by simp [isReadOut]

theorem not_isReadOut_rxDecode (p : Bytes) : ¬ isReadOut (.rxDecode p) := by simp [isReadOut]

/-- What a command adds to the outputs: at most one event, then one response, which fits the command. -/
theorem exec_command_responds (i : Instr) (s t : State) (hi : i.isCommand = true) (h : exec i s = .next t) :
    ∃ (events : List Event) (r : Response),
      t.out = s.out ++ (events.map .event ++ [.response r]) ∧ events.length ≤ 1 ∧ r.fits i := by
  rcases exec_command_cases i s t hi h with ⟨rfl, rfl⟩ | ⟨rfl, rfl⟩ | ⟨rfl, rfl⟩ | ⟨b, hread, rfl⟩ | ⟨c, hread, rfl⟩ |
    ⟨c, hwhy, rfl⟩ | ⟨k, v, hconf, _, rfl⟩ | ⟨k, v, hconf, _, rfl⟩ |
    ⟨p, rfl, _, ⟨c, n, v, e, _, _, rfl⟩ | ⟨v, e, w, _, rfl⟩⟩ |
    ⟨p, rfl, _, ⟨c, n, v, e, _, _, rfl⟩ | ⟨v, e, w, _, rfl⟩⟩
  -- RESET and the closes
  iterate 3 exact ⟨[], _, rfl, by simp, Response.fits_empty (by simp [isReadOut])⟩
  · exact ⟨[], _, rfl, by simp, Response.fits_statusByte hread⟩
  · exact ⟨[], _, rfl, by simp, Response.fits_ctrBytes hread⟩
  -- a rejection: the command is `*_INIT`, TX_ENCODE or RX_DECODE
  · refine ⟨[], _, rfl, by simp, Response.fits_empty ?_⟩
    rcases hwhy with ⟨_, ⟨hconf, _⟩ | ⟨hconf, _⟩ | ⟨⟨p, rfl⟩, _⟩ | ⟨⟨p, rfl⟩, _⟩⟩ | ⟨_, hconf | hconf⟩
    case inl.inr.inr.inl => exact not_isReadOut_txEncode p
    case inl.inr.inr.inr => exact not_isReadOut_rxDecode p
    all_goals exact not_isReadOut_of_configures hconf
  iterate 2 exact ⟨[], _, rfl, by simp, Response.fits_empty (not_isReadOut_of_configures hconf)⟩
  · exact ⟨[.onError .tx c], _, rfl, by simp, Response.fits_empty (not_isReadOut_txEncode p)⟩
  · exact ⟨[.onEncoded w], _, rfl, by simp, Response.fits_txEncode⟩
  · exact ⟨[.onError .rx c], _, rfl, by simp, Response.fits_empty (not_isReadOut_rxDecode p)⟩
  · exact ⟨[.onDecoded w], _, rfl, by simp, Response.fits_rxDecode⟩

/-- Settles O15, by the outcomes of a command. -/
theorem oneResponseEachCommand : Obligations.OneResponseEachCommand := by
  intro i s t hi h
  obtain ⟨events, r, hout, hlen, hfits⟩ := exec_command_responds i s t hi h
  exact ⟨events, r, by rw [hout, List.append_assoc], hlen, hfits⟩

/-- A stage runs only on the latch that waits for it; on any other it is turned away. -/
theorem exec_stage_notDue (i : Instr) (s : State) (hi : i.isCommand = false)
    (htx : ∀ f, s.txFlight = some f → txDue f ≠ i) (hrx : ∀ f, s.rxFlight = some f → rxDue f ≠ i) :
    exec i s = .next (stageNotDue s) := by
  cases i <;> simp only [Instr.isCommand, Bool.true_eq_false] at hi
  case txCompress | txTagCompute | txTagAppend | txCtrInc | txCipherEncrypt | txEmit =>
    simp only [exec, execTxCompress, execTxTagCompute, execTxTagAppend, execTxCtrInc, execTxCipherEncrypt, execTxEmit]
    split
    next hdue => exact absurd rfl (htx _ hdue)
    · rfl
  case rxCtrInc =>
    simp only [exec, execRxCtrInc]
    split
    next hdue => exact absurd rfl (hrx _ hdue)
    next hdue => exact absurd rfl (hrx _ hdue)
    · rfl
  case rxCipherDecrypt | rxSplit | rxTagCompute | rxTagCompare | rxDecompress | rxEmit =>
    simp only [exec, execRxCipherDecrypt, execRxSplit, execRxTagCompute, execRxTagCompare, execRxDecompress, execRxEmit]
    split
    next hdue => exact absurd rfl (hrx _ hdue)
    · rfl

/-- Settles O37: a stage that is turned away is answered IllegalCommand. -/
theorem stageNotDueAnswersIllegalCommand : Obligations.StageNotDueAnswersIllegalCommand :=
  exec_stage_notDue

end Sys2Proof.Machine
end

section
/-! Assembler lines (30_encoding.md R69): what the line reader does with each part of a rendered line, and the line of every command read back. -/

namespace Sys2Proof.Machine

/-- The double quote, as the line reader compares with it. -/
abbrev doubleQuote : Char := '\x22'

/-- The characters the line reader acts on, and the first letters of the two labels. -/
def lineMarks : List Char := [' ', ',', ';', doubleQuote, 'k', 'i']

theorem hexDigit_not_mem_lineMarks : ∀ n < 16, hexDigit n ∉ lineMarks := by decide

theorem hexValue_hexDigit : ∀ n < 16, hexValue (hexDigit n) = some n := by decide

theorem hexDigit_ne {n : Nat} (hn : n < 16) {c : Char} (hc : c ∈ lineMarks) : hexDigit n ≠ c :=
  fun h => hexDigit_not_mem_lineMarks n hn (h ▸ hc)

theorem byte_hi_lt (b : Byte) : b.toNat / 16 < 16 := by have := b.isLt; omega

theorem byte_lo_lt (b : Byte) : b.toNat % 16 < 16 := Nat.mod_lt _ (by norm_num)

/-- The digits of a byte give the byte back. -/
theorem ofNat_hexDigits (b : Byte) : BitVec.ofNat 8 (16 * (b.toNat / 16) + b.toNat % 16) = b := by
  rw [Nat.div_add_mod, BitVec.ofNat_toNat, BitVec.setWidth_eq]

/-! One operand. -/

theorem not_mem_renderPairs {c : Char} (hc : c ∈ lineMarks) (hspace : c ≠ ' ') (b : Bytes) : c ∉ renderPairs b := by
  induction b with
  | nil => simp [renderPairs]
  | cons x xs ih =>
    have hhi := (hexDigit_ne (byte_hi_lt x) hc).symm
    have hlo := (hexDigit_ne (byte_lo_lt x) hc).symm
    simp [renderPairs, hhi, hlo, hspace, ih]

theorem not_mem_renderOperand {c : Char} (hc : c ∈ lineMarks) (hspace : c ≠ ' ') (hquote : c ≠ doubleQuote) (b : Bytes) :
    c ∉ renderOperand b := by
  cases b with
  | nil => simp [renderOperand, hquote]
  | cons x xs => exact not_mem_renderPairs hc hspace (x :: xs)

/-- A rendered operand starts with a quote or with a hexadecimal digit. -/
theorem renderOperand_head (b : Bytes) :
    ∃ c cs, renderOperand b = c :: cs ∧ (c = doubleQuote ∨ c ∉ lineMarks) := by
  cases b with
  | nil => exact ⟨doubleQuote, [doubleQuote], rfl, .inl rfl⟩
  | cons x xs => exact ⟨_, _, rfl, .inr (hexDigit_not_mem_lineMarks _ (byte_hi_lt x))⟩

theorem skipSpaces_cons {c : Char} (cs : List Char) (h : c ≠ ' ') : skipSpaces (c :: cs) = c :: cs := by
  simp [skipSpaces, h]

@[simp] theorem skipSpaces_space (l : List Char) : skipSpaces (' ' :: l) = skipSpaces l := by simp [skipSpaces]

theorem skipSpaces_renderOperand (b : Bytes) : skipSpaces (renderOperand b) = renderOperand b := by
  obtain ⟨c, cs, hb, hc⟩ := renderOperand_head b
  rw [hb, skipSpaces_cons]
  rintro rfl
  exact hc.elim (by decide) fun h => h (by decide)

theorem readPairs_renderPairs (b : Bytes) : readPairs (renderPairs b) = some b := by
  induction b with
  | nil => rfl
  | cons x xs ih =>
    -- the first digit is not the space that the reader skips
    have hhi := hexDigit_ne (byte_hi_lt x) (c := ' ') (by decide)
    rw [renderPairs, readPairs.eq_def]
    simp [hexValue_hexDigit _ (byte_hi_lt x), hexValue_hexDigit _ (byte_lo_lt x), ih, ofNat_hexDigits]

theorem readOperand_renderOperand (b : Bytes) : readOperand (renderOperand b) = some b := by
  unfold readOperand
  rw [skipSpaces_renderOperand]
  cases b with
  | nil => rfl
  | cons x xs =>
    -- the first digit is not the quote that starts a string
    have hquote := hexDigit_ne (byte_hi_lt x) (c := doubleQuote) (by decide)
    have hread := readPairs_renderPairs (x :: xs)
    rw [renderPairs] at hread
    simp [renderOperand, renderPairs, hread]

theorem readOperand_space (l : List Char) : readOperand (' ' :: l) = readOperand l := by
  simp [readOperand]

theorem dropLabel_space (label l : List Char) (hl : skipSpaces l = l) :
    dropLabel label (' ' :: l) = dropLabel label l := by
  simp [dropLabel, hl]

/-- No rendered operand begins like a label. -/
theorem dropLabel_renderOperand {c : Char} (label : List Char) (hc : c ∈ lineMarks) (hquote : c ≠ doubleQuote) (b : Bytes) :
    dropLabel (c :: label) (renderOperand b) = renderOperand b := by
  obtain ⟨a, as, hb, ha⟩ := renderOperand_head b
  have hne : c ≠ a := by
    rintro rfl
    exact ha.elim hquote fun h => h hc
  unfold dropLabel
  rw [skipSpaces_renderOperand, hb]
  simp [hne]

/-! The parts of a line. -/

/-- A line without a semicolon has no comment. -/
theorem dropComment_of_not_mem (quoted : Bool) (l : List Char) (h : ';' ∉ l) : dropComment quoted l = l := by
  induction l generalizing quoted with
  | nil => rfl
  | cons c cs ih =>
    rw [List.mem_cons, not_or] at h
    obtain ⟨hc, hcs⟩ := h
    simp [dropComment, Ne.symm hc, ih _ hcs]

/-- Characters that are neither a comma nor a quote go into the current operand. -/
theorem splitOperands_append (quoted : Bool) (cur l rest : List Char) (hcomma : ',' ∉ l) (hquote : doubleQuote ∉ l) :
    splitOperands quoted cur (l ++ rest) = splitOperands quoted (l.reverse ++ cur) rest := by
  induction l generalizing cur with
  | nil => rfl
  | cons c cs ih =>
    rw [List.mem_cons, not_or] at hcomma hquote
    obtain ⟨hc, hcs⟩ := hcomma
    obtain ⟨hq, hqs⟩ := hquote
    simp [splitOperands, Ne.symm hc, Ne.symm hq, ih _ hcs hqs]

/-- A rendered operand is taken whole: its quotes, where it has any, are closed. -/
theorem splitOperands_renderOperand (cur rest : List Char) (b : Bytes) :
    splitOperands false cur (renderOperand b ++ rest) = splitOperands false ((renderOperand b).reverse ++ cur) rest := by
  cases b with
  | nil => simp [renderOperand, splitOperands]
  | cons x xs =>
    exact splitOperands_append false cur (renderPairs (x :: xs)) rest
      (not_mem_renderPairs (by decide) (by decide) _) (not_mem_renderPairs (by decide) (by decide) _)

theorem splitOperands_one (b : Bytes) :
    splitOperands false [] (' ' :: renderOperand b) = [' ' :: renderOperand b] := by
  have h := splitOperands_renderOperand [' '] [] b
  rw [List.append_nil] at h
  simp [splitOperands, h]

theorem splitOperands_two (a b : Bytes) :
    splitOperands false [] (' ' :: (renderOperand a ++ ',' :: renderOperand b)) =
      [' ' :: renderOperand a, renderOperand b] := by
  have hb := splitOperands_renderOperand [] [] b
  rw [List.append_nil] at hb
  simp [splitOperands, splitOperands_renderOperand [' '] _ a, hb]

theorem readOne_renderOperand (f : Bytes → Instr) (b : Bytes) : readOne f [' ' :: renderOperand b] = some [f b] := by
  simp [readOne, readOperand_space, readOperand_renderOperand]

theorem readKeyIv_renderOperand (f : Bytes → Bytes → List Instr) (key iv : Bytes) :
    readKeyIv f [' ' :: renderOperand key, renderOperand iv] = some (f key iv) := by
  have hkey := dropLabel_renderOperand (c := 'k') ['e', 'y', '='] (by decide) (by decide) key
  have hiv := dropLabel_renderOperand (c := 'i') ['v', '='] (by decide) (by decide) iv
  simp [readKeyIv, dropLabel_space _ _ (skipSpaces_renderOperand key), hkey, hiv, readOperand_renderOperand]

/-- A line of a mnemonic and operands, without a comment: the mnemonic ends at the first space. -/
theorem readLine_mnemonic (mn ops : List Char) (hne : mn ≠ []) (hspace : ' ' ∉ mn) (hmn : ';' ∉ mn) (hops : ';' ∉ ops) :
    readLine (mn ++ ' ' :: ops) = readMnemonic mn (splitOperands false [] (' ' :: ops)) := by
  have hline : dropComment false (mn ++ ' ' :: ops) = mn ++ ' ' :: ops :=
    dropComment_of_not_mem false _ (by simp [hmn, hops])
  have hskip : skipSpaces (mn ++ ' ' :: ops) = mn ++ ' ' :: ops := by
    cases mn with
    | nil => exact absurd rfl hne
    | cons c cs => exact skipSpaces_cons _ fun h => hspace (h ▸ List.mem_cons_self)
  have hall : ∀ c ∈ mn, (c != ' ') = true := fun c hc => by
    rw [bne_iff_ne]
    rintro rfl
    exact hspace hc
  unfold readLine
  rw [hline, hskip]
  simp [hne, List.takeWhile_append_of_pos hall, List.dropWhile_append_of_pos hall]

/-- The line of a command with one operand. -/
theorem readLine_one (mn : List Char) (f : Bytes → Instr) (b : Bytes) (hne : mn ≠ []) (hspace : ' ' ∉ mn)
    (hmn : ';' ∉ mn) (hread : ∀ ops, readMnemonic mn ops = readOne f ops) :
    readLine (mn ++ ' ' :: renderOperand b) = some [f b] := by
  rw [readLine_mnemonic mn _ hne hspace hmn (not_mem_renderOperand (by decide) (by decide) (by decide) b), hread,
    splitOperands_one, readOne_renderOperand]

/-- The line of a command with a key and an IV. -/
theorem readLine_two (mn : List Char) (f : Bytes → Bytes → Instr) (key iv : Bytes) (hne : mn ≠ []) (hspace : ' ' ∉ mn)
    (hmn : ';' ∉ mn) (hread : ∀ ops, readMnemonic mn ops = readKeyIv (fun k v => [f k v]) ops) :
    readLine (mn ++ ' ' :: renderOperand key ++ ',' :: renderOperand iv) = some [f key iv] := by
  have hops : ';' ∉ renderOperand key ++ ',' :: renderOperand iv := by
    simp [not_mem_renderOperand (c := ';') (by decide) (by decide) (by decide)]
  rw [List.append_assoc, List.cons_append, readLine_mnemonic mn _ hne hspace hmn hops, hread, splitOperands_two,
    readKeyIv_renderOperand]

/-- Settles O9: the mnemonic names the command, and each operand is split off and read back whole. -/
theorem assemblerLineReadsBack : Obligations.AssemblerLineReadsBack := by
  intro i hi
  cases i <;> simp only [Instr.isCommand, Bool.false_eq_true] at hi
  case txInit key iv =>
    exact ⟨_, rfl, readLine_two mnTxInit .txInit key iv (by decide) (by decide) (by decide) fun _ => rfl⟩
  case rxInit key iv =>
    exact ⟨_, rfl, readLine_two mnRxInit .rxInit key iv (by decide) (by decide) (by decide) fun _ => rfl⟩
  case txEncode payload =>
    exact ⟨_, rfl, readLine_one mnTxEncode .txEncode payload (by decide) (by decide) (by decide) fun _ => rfl⟩
  case rxDecode wire =>
    exact ⟨_, rfl, readLine_one mnRxDecode .rxDecode wire (by decide) (by decide) (by decide) fun _ => rfl⟩
  -- a mnemonic alone
  all_goals exact ⟨_, rfl, rfl⟩

end Sys2Proof.Machine
end

section
/-! The stream cipher on whole strings (40_stream_cipher.md R94 to R98): decryption inverts encryption, a string may be cut anywhere, and a wrong ciphertext byte is felt until it has left the shift register. -/

namespace Sys2Proof.Machine

/-! Inversion. -/

/-- Both functions shift the ciphertext byte in (R91), so that the keystreams agree. -/
theorem cfb8Dec_cfb8Enc (E : Key → Block → Block) (key : Key) (s : Block) (p : Bytes) :
    cfb8Dec E key s (cfb8Enc E key s p).1 = (p, (cfb8Enc E key s p).2) := by
  induction p generalizing s with
  | nil => rfl
  | cons x xs ih => rw [cfb8Enc_cons, cfb8Dec_cons, ih, xor_cancel_right]

theorem cfb8Enc_cfb8Dec (E : Key → Block → Block) (key : Key) (s : Block) (c : Bytes) :
    cfb8Enc E key s (cfb8Dec E key s c).1 = (c, (cfb8Dec E key s c).2) := by
  induction c generalizing s with
  | nil => rfl
  | cons x xs ih => rw [cfb8Dec_cons, cfb8Enc_cons, xor_cancel_right, ih]

/-- Settles O49: each function, run on the other's output, gives back the input and the same register. -/
theorem cfbInversion : Obligations.CfbInversion := by
  intro E key s s' p c
  constructor <;> intro h
  · simpa only [h] using cfb8Dec_cfb8Enc E key s p
  · simpa only [h] using cfb8Enc_cfb8Dec E key s c

/-! Chunks and lengths. -/

theorem cfb8Enc_append (E : Key → Block → Block) (key : Key) (s : Block) (a b : Bytes) :
    cfb8Enc E key s (a ++ b) =
      ((cfb8Enc E key s a).1 ++ (cfb8Enc E key (cfb8Enc E key s a).2 b).1,
        (cfb8Enc E key (cfb8Enc E key s a).2 b).2) := by
  induction a generalizing s with
  | nil => rfl
  | cons x xs ih => simp only [List.cons_append, cfb8Enc_cons, ih]

theorem cfb8Dec_append (E : Key → Block → Block) (key : Key) (s : Block) (a b : Bytes) :
    cfb8Dec E key s (a ++ b) =
      ((cfb8Dec E key s a).1 ++ (cfb8Dec E key (cfb8Dec E key s a).2 b).1,
        (cfb8Dec E key (cfb8Dec E key s a).2 b).2) := by
  induction a generalizing s with
  | nil => rfl
  | cons x xs ih => simp only [List.cons_append, cfb8Dec_cons, ih]

@[simp] theorem cfb8Enc_length (E : Key → Block → Block) (key : Key) (s : Block) (p : Bytes) :
    (cfb8Enc E key s p).1.length = p.length := by
  induction p generalizing s with
  | nil => rfl
  | cons x xs ih => simp [cfb8Enc_cons, ih]

@[simp] theorem cfb8Dec_length (E : Key → Block → Block) (key : Key) (s : Block) (c : Bytes) :
    (cfb8Dec E key s c).1.length = c.length := by
  induction c generalizing s with
  | nil => rfl
  | cons x xs ih => simp [cfb8Dec_cons, ih]

/-- Settles O50, by what each function does on a concatenation. -/
theorem cfbChunksAndLength : Obligations.CfbChunksAndLength := by
  refine ⟨fun E key s s1 s2 a b x y ha hb => ?_, fun E key s s1 s2 a b x y ha hb => ?_, fun E key s p => ?_⟩
  · simp only [cfb8Enc_append, ha, hb]
  · simp only [cfb8Dec_append, ha, hb]
  · exact ⟨cfb8Enc_length E key s p, cfb8Dec_length E key s p⟩

/-! Error extent. -/

/-- After 16 bytes of ciphertext the register holds them alone. -/
theorem cfb8Dec_shift_sixteen (E : Key → Block → Block) (key : Key) (s : Block) (c : Bytes) (hc : c.length = 16) :
    (cfb8Dec E key s c).2 = Block.ofBytes c := by
  have hdrop : (s.toList ++ c).drop ((s.toList ++ c).length - 16) = c := by simp [hc]
  rw [cfb8Dec_shift, lastSixteen, hdrop]

theorem cfb8Dec_drop (E : Key → Block → Block) (key : Key) (s : Block) (c : Bytes) (n : Nat) (hn : n ≤ c.length) :
    (cfb8Dec E key s c).1.drop n = (cfb8Dec E key (cfb8Dec E key s (c.take n)).2 (c.drop n)).1 := by
  conv_lhs => rw [← List.take_append_drop n c, cfb8Dec_append]
  exact List.drop_left' (by simp [hn])

/-- Decryption synchronises itself: from the 16th byte on, the plaintext does not depend on the register it began with. -/
theorem cfb8Dec_drop_sixteen (E : Key → Block → Block) (key : Key) (s s' : Block) (c : Bytes) :
    (cfb8Dec E key s c).1.drop 16 = (cfb8Dec E key s' c).1.drop 16 := by
  by_cases hc : 16 ≤ c.length
  · have htake : (c.take 16).length = 16 := List.length_take_of_le hc
    rw [cfb8Dec_drop E key s c 16 hc, cfb8Dec_drop E key s' c 16 hc, cfb8Dec_shift_sixteen E key s _ htake,
      cfb8Dec_shift_sixteen E key s' _ htake]
  · have hshort : c.length ≤ 16 := Nat.le_of_not_le hc
    rw [List.drop_eq_nil_of_le (by simpa using hshort), List.drop_eq_nil_of_le (by simpa using hshort)]

/-- Around one ciphertext byte: what comes before it, its own image, and what follows with the byte shifted in. -/
theorem cfb8Dec_around (E : Key → Block → Block) (key : Key) (s : Block) (a b : Bytes) (x : Byte) :
    (cfb8Dec E key s (a ++ x :: b)).1 = (cfb8Dec E key s a).1 ++ (x ^^^ keystream E key (cfb8Dec E key s a).2) ::
      (cfb8Dec E key (shiftIn (cfb8Dec E key s a).2 x) b).1 := by
  rw [cfb8Dec_append, cfb8Dec_cons]

/-- Two bytes under one keystream byte keep their difference. -/
theorem xor_difference (x y o : Byte) : x ^^^ o ^^^ (x ^^^ y) = y ^^^ o := by
  rw [BitVec.xor_comm x o, BitVec.xor_assoc, xor_cancel_left, BitVec.xor_comm]

/-- Settles O52: the prefix is decrypted the same, the byte meets the same keystream byte, and 16 bytes later the register has forgotten it. -/
theorem cfbErrorExtent : Obligations.CfbErrorExtent := by
  intro E key s a b x y k
  simp only [cfb8Dec_around]
  refine ⟨fun hk => ?before, ?altered, fun hk => ?after⟩
  case before =>
    rw [List.getElem?_append_left (by simpa using hk), List.getElem?_append_left (by simpa using hk)]
  case altered =>
    have hself (z : Byte) (zs : Bytes) : ((cfb8Dec E key s a).1 ++ z :: zs)[a.length]? = some z := by simp
    rw [hself, hself, Option.map_some, xor_difference]
  case after =>
    obtain ⟨j, rfl⟩ := Nat.exists_eq_add_of_le hk
    have hindex : a.length + 17 + j - a.length = 16 + j + 1 := by omega
    have hlate (z : Byte) (zs : Bytes) :
        ((cfb8Dec E key s a).1 ++ z :: zs)[a.length + 17 + j]? = (zs.drop 16)[j]? := by
      rw [List.getElem?_append_right (by rw [cfb8Dec_length]; omega), cfb8Dec_length, hindex, List.getElem?_cons_succ,
        List.getElem?_drop]
    rw [hlate, hlate, cfb8Dec_drop_sixteen]

end Sys2Proof.Machine
end

section
/-! The substitution table (40_stream_cipher.md R101, R102). -/

namespace Sys2Proof.Machine

/-- The inverse of the bit map `affine`; it names, for each table entry, the field element the entry is the image of. -/
def affineInv (b : Byte) : Byte :=
  b.rotateRight 2 ^^^ b.rotateRight 5 ^^^ b.rotateRight 7 ^^^ 0x05#8

theorem affine_affineInv (b : Byte) : affine (affineInv b) = b := by
  revert b
  decide

/-- The check of the table, entry by entry: what each is the image of is the inverse of its index. -/
theorem gfMul_affineInv_sbox : ∀ a : Byte, a ≠ 0#8 → gfMul 8 a (affineInv (sbox a)) = 1#8 := by
  decide

/-- Settles O54: the inverse of a byte is read off its table entry by undoing the affine map. -/
theorem sboxIsAffineOfInverse : Obligations.SboxIsAffineOfInverse :=
  ⟨rfl, fun a ha => ⟨affineInv (sbox a), gfMul_affineInv_sbox a ha, (affine_affineInv _).symm⟩⟩

end Sys2Proof.Machine
end

section
/-! The sequence tag and the layout of its hash input (41_sequence_checksum.md R121, R122). -/

namespace Sys2Proof.Machine

@[simp] theorem tagPreimage_length (c : Bytes) (ctr : Ctr) (key : Key) :
    (tagPreimage c ctr key).length = c.length + 40 := by
  simp only [tagPreimage, List.length_append, leBytes_length, Vector.length_toList]
  omega

theorem tagPreimage_take_counter (c : Bytes) (ctr : Ctr) (key : Key) :
    (tagPreimage c ctr key).take 8 = leBytes 8 ctr.toNat := by
  rw [tagPreimage, List.append_assoc]
  exact List.take_left' (leBytes_length 8 ctr.toNat)

theorem tagPreimage_drop_counter (c : Bytes) (ctr : Ctr) (key : Key) :
    (tagPreimage c ctr key).drop 8 = c ++ key.toList := by
  rw [tagPreimage, List.append_assoc]
  exact List.drop_left' (leBytes_length 8 ctr.toNat)

/-- A counter is below 2^64, so its eight bytes lose nothing of it. -/
theorem fromLE_tagPreimage_counter (c : Bytes) (ctr : Ctr) (key : Key) :
    fromLE ((tagPreimage c ctr key).take 8) = ctr.toNat := by
  rw [tagPreimage_take_counter]
  exact fromLE_leBytes 8 ctr.toNat ctr.isLt

/-- The counter can be read back from the hash input, whatever string and key follow it (R125). -/
theorem counter_eq_of_tagPreimage_eq {c c' : Bytes} {ctr ctr' : Ctr} {key key' : Key}
    (h : tagPreimage c ctr key = tagPreimage c' ctr' key') : ctr = ctr' := by
  apply BitVec.eq_of_toNat_eq
  calc ctr.toNat = fromLE ((tagPreimage c ctr key).take 8) := (fromLE_tagPreimage_counter c ctr key).symm
    _ = fromLE ((tagPreimage c' ctr' key').take 8) := by rw [h]
    _ = ctr'.toNat := fromLE_tagPreimage_counter c' ctr' key'

/-- Settles O53: the first eight bytes of the hash input are split off, and the counter is read back from them. -/
theorem tagLayout : Obligations.TagLayout := by
  intro c ctr ctr' key
  refine ⟨rfl, tag_length c ctr key, tagPreimage_length c ctr key, fromLE_tagPreimage_counter c ctr key,
    ?string, ?key, counter_eq_of_tagPreimage_eq⟩
  case string => rw [tagPreimage_drop_counter, List.take_left]
  case key => rw [← List.drop_drop, tagPreimage_drop_counter, List.drop_left]

end Sys2Proof.Machine
end

section
/-! What each reader of `Inflate` does when it succeeds (42_compression.md R146 to R158), in the order of the definitions. -/

namespace Sys2Proof.Machine

variable {z : Bytes}

theorem bit_eq_some_iff {pos b p : Nat} :
    bit z pos = some (b, p) ↔
      ∃ byte, z[pos / 8]? = some byte ∧ byte.toNat / 2 ^ (pos % 8) % 2 = b ∧ pos + 1 = p := by
  cases h : z[pos / 8]? <;> simp [bit, h]

theorem bits_zero_eq_some_iff {pos v p : Nat} : bits z 0 pos = some (v, p) ↔ v = 0 ∧ p = pos := by
  simp [bits, eq_comm]

theorem bits_succ_eq_some_iff {n pos v p : Nat} :
    bits z (n + 1) pos = some (v, p) ↔
      ∃ b q w, bit z pos = some (b, q) ∧ bits z n q = some (w, p) ∧ b + 2 * w = v := by
  rw [bits]
  grind

theorem decodeSymbolFrom_succ_eq_some_iff {table : List HuffCode} {n l c pos s p : Nat} :
    decodeSymbolFrom table z (n + 1) l c pos = some (s, p) ↔
      ∃ b q, bit z pos = some (b, q) ∧
        ((∃ e, table.find? (fun e => e.len == l && e.code == 2 * c + b) = some e ∧ e.sym = s ∧ q = p) ∨
          table.find? (fun e => e.len == l && e.code == 2 * c + b) = none ∧
            decodeSymbolFrom table z n (l + 1) (2 * c + b) q = some (s, p)) := by
  rw [decodeSymbolFrom]
  grind

theorem readClLens_cons_eq_some_iff {s : Nat} {order cl : List Nat} {pos : Nat} {r : List Nat × Nat} :
    readClLens z (s :: order) cl pos = some r ↔
      ∃ v p, bits z 3 pos = some (v, p) ∧ readClLens z order (cl.set s v) p = some r := by
  rw [readClLens]
  grind

theorem lengthRun_eq_some_iff {s : Nat} {lens run : List Nat} {pos p : Nat} :
    lengthRun z s lens pos = some (run, p) ↔
      s ≤ 15 ∧ run = [s] ∧ p = pos ∨
      s = 16 ∧ (∃ v older n, lens = v :: older ∧ bits z 2 pos = some (n, p) ∧ run = List.replicate (3 + n) v) ∨
      s = 17 ∧ (∃ n, bits z 3 pos = some (n, p) ∧ run = List.replicate (3 + n) 0) ∨
      17 < s ∧ ∃ n, bits z 7 pos = some (n, p) ∧ run = List.replicate (11 + n) 0 := by
  unfold lengthRun
  grind

theorem readLengths_zero_eq_some_iff {clcode : List HuffCode} {total : Nat} {lens lens' : List Nat} {pos p : Nat} :
    readLengths z clcode total 0 lens pos = some (lens', p) ↔
      total ≤ lens.length ∧ lens.reverse = lens' ∧ pos = p := by
  unfold readLengths
  grind

theorem readLengths_succ_eq_some_iff {clcode : List HuffCode} {total fuel : Nat} {lens lens' : List Nat}
    {pos p : Nat} :
    readLengths z clcode total (fuel + 1) lens pos = some (lens', p) ↔
      total ≤ lens.length ∧ lens.reverse = lens' ∧ pos = p ∨
      lens.length < total ∧
        ∃ s q run q', decodeSymbol clcode z pos = some (s, q) ∧ lengthRun z s lens q = some (run, q') ∧
          lens.length + run.length ≤ total ∧ readLengths z clcode total fuel (run ++ lens) q' = some (lens', p) := by
  rw [readLengths]
  grind

theorem dynamicHeader_eq_some_iff {pos : Nat} {lit dist : List HuffCode} {p : Nat} :
    dynamicHeader z pos = some (lit, dist, p) ↔
      ∃ f1 p1 f2 p2 f3 p3 cl p4 lens,
        bits z 5 pos = some (f1, p1) ∧ bits z 5 p1 = some (f2, p2) ∧ bits z 4 p2 = some (f3, p3) ∧
        f1 + 257 ≤ 286 ∧ f2 + 1 ≤ 30 ∧
        readClLens z (clOrder.take (f3 + 4)) (List.replicate 19 0) p3 = some (cl, p4) ∧ complete cl ∧
        readLengths z (canonical cl) (f1 + 257 + (f2 + 1)) (f1 + 257 + (f2 + 1)) [] p4 = some (lens, p) ∧
        (lens.take (f1 + 257)).getD 256 0 ≠ 0 ∧ complete (lens.take (f1 + 257)) ∧
        (complete (lens.drop (f1 + 257)) ∨ allZero (lens.drop (f1 + 257)) ∨
          oneCodeOfLengthOne (lens.drop (f1 + 257))) ∧
        canonical (lens.take (f1 + 257)) = lit ∧ canonical (lens.drop (f1 + 257)) = dist := by
  constructor
  · intro h
    simp only [dynamicHeader] at h
    repeat' split at h
    -- every other branch of the header is an error
    case h_2.isFalse.isTrue => grind
    all_goals cases h
  · rintro ⟨f1, p1, f2, p2, f3, p3, cl, p4, lens, h1, h2, h3, hlit, hdist, hcl, hcomplete, hlens, hend, hll, hdl, rfl,
      rfl⟩
    simp only [dynamicHeader, h1, h2, h3, hcl, hcomplete, hlens]
    grind

theorem readDistance_eq_some_iff {dist : List HuffCode} {pos d p : Nat} :
    readDistance z dist pos = some (d, p) ↔
      ∃ s q extra, dist.isEmpty = false ∧ decodeSymbol dist z pos = some (s, q) ∧ s < distBase.length ∧
        bits z (distExtra.getD s 0) q = some (extra, p) ∧ distBase.getD s 0 + extra = d := by
  unfold readDistance
  grind

theorem readPair_eq_some_iff {dist : List HuffCode} {k pos len d p : Nat} :
    readPair z dist k pos = some (len, d, p) ↔
      ∃ extra q, bits z (lengthExtra.getD k 0) pos = some (extra, q) ∧ readDistance z dist q = some (d, p) ∧
        lengthBase.getD k 0 + extra = len := by
  unfold readPair
  grind

theorem huffmanTurn_eq_some_iff {lit dist : List HuffCode} {pos : Nat} {t : HuffTurn} :
    huffmanTurn z lit dist pos = some t ↔
      ∃ s p, decodeSymbol lit z pos = some (s, p) ∧
        (s < 256 ∧ t = .literal (BitVec.ofNat 8 s) p ∨
          s = 256 ∧ t = .endOfBlock p ∨
          256 < s ∧ s ≤ 285 ∧ ∃ len d q, readPair z dist (s - 257) p = some (len, d, q) ∧ t = .pair len d q) := by
  unfold huffmanTurn
  grind

theorem huffmanBlock_succ_eq_some_iff {lit dist : List HuffCode} {fuel pos : Nat} {out : Bytes} {r : Nat × Bytes} :
    huffmanBlock z lit dist (fuel + 1) pos out = some r ↔
      (∃ b p, huffmanTurn z lit dist pos = some (.literal b p) ∧
        huffmanBlock z lit dist fuel p (b :: out) = some r) ∨
      (∃ p, huffmanTurn z lit dist pos = some (.endOfBlock p) ∧ r = (p, out)) ∨
      ∃ len d p, huffmanTurn z lit dist pos = some (.pair len d p) ∧ d ≤ out.length ∧
        huffmanBlock z lit dist fuel p (copyBack d len out) = some r := by
  rw [huffmanBlock]
  grind

theorem storedBlock_eq_some_iff {pos p : Nat} {out out' : Bytes} :
    storedBlock z pos out = some (p, out') ↔
      ∃ len p1 nlen p2, bits z 16 (8 * ((pos + 7) / 8)) = some (len, p1) ∧ bits z 16 p1 = some (nlen, p2) ∧
        len ^^^ nlen = 0xffff ∧ p2 / 8 + len ≤ z.length ∧ p2 + 8 * len = p ∧
        ((z.drop (p2 / 8)).take len).reverse ++ out = out' := by
  unfold storedBlock
  grind

theorem blockBody_eq_some_iff {btype pos : Nat} {out : Bytes} {r : Nat × Bytes} :
    blockBody z btype pos out = some r ↔
      btype = 0 ∧ storedBlock z pos out = some r ∨
      btype = 1 ∧ huffmanBlock z fixedLit fixedDist (8 * z.length + 1) pos out = some r ∨
      btype = 2 ∧ ∃ lit dist p, dynamicHeader z pos = some (lit, dist, p) ∧
        huffmanBlock z lit dist (8 * z.length + 1) p out = some r := by
  unfold blockBody
  grind

theorem inflateBlocks_succ_eq_some_iff {fuel pos : Nat} {out : Bytes} {r : Nat × Bytes} :
    inflateBlocks z (fuel + 1) pos out = some r ↔
      ∃ bfinal p1 btype p2 p3 out', bits z 1 pos = some (bfinal, p1) ∧ bits z 2 p1 = some (btype, p2) ∧
        blockBody z btype p2 out = some (p3, out') ∧
        (bfinal = 1 ∧ r = (p3, out') ∨ bfinal ≠ 1 ∧ inflateBlocks z fuel p3 out' = some r) := by
  rw [inflateBlocks]
  grind

theorem inflate_eq_some_iff {payload : Bytes} :
    inflate z = some payload ↔
      ∃ pos out, inflateBlocks z (8 * z.length + 1) 0 [] = some (pos, out) ∧ (pos + 7) / 8 = z.length ∧
        out.reverse = payload := by
  unfold inflate
  grind

end Sys2Proof.Machine
end

section
/-! A reader that succeeds on `z` does the same on every longer stream: it looks at no byte it has not reached (42_compression.md R146). Hence a stream with bytes after it, or cut short, is an error (R144, R158). -/

namespace Sys2Proof.Machine

variable {z : Bytes} (x : Bytes)

theorem bit_append {pos b p : Nat} (h : bit z pos = some (b, p)) : bit (z ++ x) pos = some (b, p) := by
  rw [bit_eq_some_iff] at h ⊢
  obtain ⟨byte, hbyte, hb⟩ := h
  exact ⟨byte, List.getElem?_append_left (List.getElem?_eq_some_iff.mp hbyte).1 ▸ hbyte, hb⟩

theorem bits_append {n pos v p : Nat} (h : bits z n pos = some (v, p)) : bits (z ++ x) n pos = some (v, p) := by
  induction n generalizing pos v with
  | zero => exact h
  | succ n ih =>
    rw [bits_succ_eq_some_iff] at h ⊢
    obtain ⟨b, q, w, hb, hw, hv⟩ := h
    exact ⟨b, q, w, bit_append x hb, ih hw, hv⟩

theorem decodeSymbolFrom_append {table : List HuffCode} {n l c pos s p : Nat}
    (h : decodeSymbolFrom table z n l c pos = some (s, p)) :
    decodeSymbolFrom table (z ++ x) n l c pos = some (s, p) := by
  induction n generalizing l c pos with
  | zero => cases h
  | succ n ih =>
    rw [decodeSymbolFrom_succ_eq_some_iff] at h ⊢
    obtain ⟨b, q, hb, hrest⟩ := h
    exact ⟨b, q, bit_append x hb, hrest.imp_right (And.imp_right ih)⟩

theorem decodeSymbol_append {table : List HuffCode} {pos s p : Nat} (h : decodeSymbol table z pos = some (s, p)) :
    decodeSymbol table (z ++ x) pos = some (s, p) :=
  decodeSymbolFrom_append x h

theorem readClLens_append {order cl : List Nat} {pos : Nat} {r : List Nat × Nat}
    (h : readClLens z order cl pos = some r) : readClLens (z ++ x) order cl pos = some r := by
  induction order generalizing cl pos with
  | nil => exact h
  | cons s order ih =>
    rw [readClLens_cons_eq_some_iff] at h ⊢
    obtain ⟨v, p, hv, hrest⟩ := h
    exact ⟨v, p, bits_append x hv, ih hrest⟩

theorem lengthRun_append {s : Nat} {lens run : List Nat} {pos p : Nat}
    (h : lengthRun z s lens pos = some (run, p)) : lengthRun (z ++ x) s lens pos = some (run, p) := by
  rw [lengthRun_eq_some_iff] at h ⊢
  obtain hlen | ⟨h16, v, older, n, hlens, hn, hrun⟩ | ⟨h17, n, hn, hrun⟩ | ⟨h18, n, hn, hrun⟩ := h
  · exact .inl hlen
  · exact .inr (.inl ⟨h16, v, older, n, hlens, bits_append x hn, hrun⟩)
  · exact .inr (.inr (.inl ⟨h17, n, bits_append x hn, hrun⟩))
  · exact .inr (.inr (.inr ⟨h18, n, bits_append x hn, hrun⟩))

theorem readLengths_append {clcode : List HuffCode} {total fuel : Nat} {lens lens' : List Nat} {pos p : Nat}
    (h : readLengths z clcode total fuel lens pos = some (lens', p)) :
    readLengths (z ++ x) clcode total fuel lens pos = some (lens', p) := by
  induction fuel generalizing lens pos with
  | zero => exact readLengths_zero_eq_some_iff.mpr (readLengths_zero_eq_some_iff.mp h)
  | succ fuel ih =>
    rw [readLengths_succ_eq_some_iff] at h ⊢
    obtain hdone | ⟨hmore, s, q, run, q', hs, hrun, hfits, hrest⟩ := h
    · exact .inl hdone
    · exact .inr ⟨hmore, s, q, run, q', decodeSymbol_append x hs, lengthRun_append x hrun, hfits, ih hrest⟩

theorem dynamicHeader_append {pos : Nat} {lit dist : List HuffCode} {p : Nat}
    (h : dynamicHeader z pos = some (lit, dist, p)) : dynamicHeader (z ++ x) pos = some (lit, dist, p) := by
  rw [dynamicHeader_eq_some_iff] at h ⊢
  obtain ⟨f1, p1, f2, p2, f3, p3, cl, p4, lens, h1, h2, h3, hlit, hdist, hcl, hcomplete, hlens, hcodes⟩ := h
  exact ⟨f1, p1, f2, p2, f3, p3, cl, p4, lens, bits_append x h1, bits_append x h2, bits_append x h3, hlit, hdist,
    readClLens_append x hcl, hcomplete, readLengths_append x hlens, hcodes⟩

theorem readDistance_append {dist : List HuffCode} {pos d p : Nat} (h : readDistance z dist pos = some (d, p)) :
    readDistance (z ++ x) dist pos = some (d, p) := by
  rw [readDistance_eq_some_iff] at h ⊢
  obtain ⟨s, q, extra, hcodes, hs, hlt, hextra, hd⟩ := h
  exact ⟨s, q, extra, hcodes, decodeSymbol_append x hs, hlt, bits_append x hextra, hd⟩

theorem readPair_append {dist : List HuffCode} {k pos len d p : Nat}
    (h : readPair z dist k pos = some (len, d, p)) : readPair (z ++ x) dist k pos = some (len, d, p) := by
  rw [readPair_eq_some_iff] at h ⊢
  obtain ⟨extra, q, hextra, hd, hlen⟩ := h
  exact ⟨extra, q, bits_append x hextra, readDistance_append x hd, hlen⟩

theorem huffmanTurn_append {lit dist : List HuffCode} {pos : Nat} {t : HuffTurn}
    (h : huffmanTurn z lit dist pos = some t) : huffmanTurn (z ++ x) lit dist pos = some t := by
  rw [huffmanTurn_eq_some_iff] at h ⊢
  obtain ⟨s, p, hs, hturn⟩ := h
  refine ⟨s, p, decodeSymbol_append x hs, hturn.imp_right (Or.imp_right ?_)⟩
  rintro ⟨hlow, hhigh, len, d, q, hpair, ht⟩
  exact ⟨hlow, hhigh, len, d, q, readPair_append x hpair, ht⟩

/-- The fuel of a block is the number of bits of the whole stream, so it grows with the stream. -/
theorem huffmanBlock_append {lit dist : List HuffCode} {fuel fuel' pos : Nat} {out : Bytes} {r : Nat × Bytes}
    (hfuel : fuel ≤ fuel') (h : huffmanBlock z lit dist fuel pos out = some r) :
    huffmanBlock (z ++ x) lit dist fuel' pos out = some r := by
  induction fuel generalizing fuel' pos out with
  | zero => cases h
  | succ fuel ih =>
    obtain ⟨fuel', rfl⟩ := Nat.exists_eq_add_of_lt hfuel
    rw [huffmanBlock_succ_eq_some_iff] at h ⊢
    obtain ⟨b, p, hturn, hrest⟩ | ⟨p, hturn, hr⟩ | ⟨len, d, p, hturn, hd, hrest⟩ := h
    · exact .inl ⟨b, p, huffmanTurn_append x hturn, ih (Nat.le_add_right ..) hrest⟩
    · exact .inr (.inl ⟨p, huffmanTurn_append x hturn, hr⟩)
    · exact .inr (.inr ⟨len, d, p, huffmanTurn_append x hturn, hd, ih (Nat.le_add_right ..) hrest⟩)

theorem storedBlock_append {pos p : Nat} {out out' : Bytes} (h : storedBlock z pos out = some (p, out')) :
    storedBlock (z ++ x) pos out = some (p, out') := by
  rw [storedBlock_eq_some_iff] at h ⊢
  obtain ⟨len, p1, nlen, p2, hlen, hnlen, hxor, hfits, hp, hout⟩ := h
  refine ⟨len, p1, nlen, p2, bits_append x hlen, bits_append x hnlen, hxor, ?fits, hp, ?data⟩
  case fits => grind
  case data =>
    rw [List.drop_append_of_le_length (by omega), List.take_append_of_le_length (by grind)]
    exact hout

theorem blockBody_append {btype pos : Nat} {out : Bytes} {r : Nat × Bytes}
    (h : blockBody z btype pos out = some r) : blockBody (z ++ x) btype pos out = some r := by
  have hfuel : 8 * z.length + 1 ≤ 8 * (z ++ x).length + 1 := by grind
  rw [blockBody_eq_some_iff] at h ⊢
  obtain ⟨h0, hbody⟩ | ⟨h1, hbody⟩ | ⟨h2, lit, dist, p, hheader, hbody⟩ := h
  · exact .inl ⟨h0, storedBlock_append x hbody⟩
  · exact .inr (.inl ⟨h1, huffmanBlock_append x hfuel hbody⟩)
  · exact .inr (.inr ⟨h2, lit, dist, p, dynamicHeader_append x hheader, huffmanBlock_append x hfuel hbody⟩)

theorem inflateBlocks_append {fuel fuel' pos : Nat} {out : Bytes} {r : Nat × Bytes} (hfuel : fuel ≤ fuel')
    (h : inflateBlocks z fuel pos out = some r) : inflateBlocks (z ++ x) fuel' pos out = some r := by
  induction fuel generalizing fuel' pos out with
  | zero => cases h
  | succ fuel ih =>
    obtain ⟨fuel', rfl⟩ := Nat.exists_eq_add_of_lt hfuel
    rw [inflateBlocks_succ_eq_some_iff] at h ⊢
    obtain ⟨bfinal, p1, btype, p2, p3, out', hfinal, htype, hbody, hrest⟩ := h
    exact ⟨bfinal, p1, btype, p2, p3, out', bits_append x hfinal, bits_append x htype, blockBody_append x hbody,
      hrest.imp_right (And.imp_right (ih (Nat.le_add_right ..)))⟩

/-- R158: the blocks end where they ended without the bytes after them, so those bytes are left over. -/
theorem inflate_append_eq_none {payload : Bytes} (h : inflate z = some payload) (hx : x ≠ []) :
    inflate (z ++ x) = none := by
  obtain ⟨pos, out, hblocks, hend, -⟩ := inflate_eq_some_iff.mp h
  have hlen : (z ++ x).length = z.length + x.length := List.length_append
  have hpos : 0 < x.length := List.length_pos_iff.mpr hx
  rw [Option.eq_none_iff_forall_ne_some]
  intro payload' h'
  obtain ⟨pos', out', hblocks', hend', -⟩ := inflate_eq_some_iff.mp h'
  rw [inflateBlocks_append x (by omega) hblocks] at hblocks'
  cases hblocks'
  omega

/-- Settles O58: a stream cut short that still inflated would have the cut bytes after it. -/
theorem trailingOrMissingBytesRejected : Obligations.TrailingOrMissingBytesRejected := by
  intro z payload h
  refine ⟨fun x hx => inflate_append_eq_none x h hx, fun k hk => ?cut⟩
  case cut =>
    rw [Option.eq_none_iff_forall_ne_some]
    intro payload' hcut
    have hrest : z.drop k ≠ [] := by simpa using hk
    have hnone := inflate_append_eq_none (z.drop k) hcut hrest
    rw [List.take_append_drop, h] at hnone
    cases hnone

end Sys2Proof.Machine
end

section
/-! What a reader consumes, and what a turn, a block and a stream put out for it: at most 129 bytes for each bit read (42_compression.md R160: at most 258 bytes for a distance pair, which costs at least 2 bits). -/

namespace Sys2Proof.Machine

variable {z : Bytes}

theorem bits_consumes {n pos v p : Nat} (h : bits z n pos = some (v, p)) : p = pos + n := by
  induction n generalizing pos v with
  | zero => exact (bits_zero_eq_some_iff.mp h).2
  | succ n ih =>
    obtain ⟨b, q, w, hb, hw, -⟩ := bits_succ_eq_some_iff.mp h
    obtain ⟨-, -, -, rfl⟩ := bit_eq_some_iff.mp hb
    rw [ih hw]
    omega

theorem bits_lt {n pos v p : Nat} (h : bits z n pos = some (v, p)) : v < 2 ^ n := by
  induction n generalizing pos v with
  | zero => simp [(bits_zero_eq_some_iff.mp h).1]
  | succ n ih =>
    obtain ⟨b, q, w, hb, hw, rfl⟩ := bits_succ_eq_some_iff.mp h
    obtain ⟨byte, -, rfl, -⟩ := bit_eq_some_iff.mp hb
    have hw := ih hw
    rw [pow_succ]
    omega

theorem decodeSymbolFrom_consumes {table : List HuffCode} {n l c pos s p : Nat}
    (h : decodeSymbolFrom table z n l c pos = some (s, p)) : pos < p := by
  induction n generalizing l c pos with
  | zero => cases h
  | succ n ih =>
    obtain ⟨b, q, hb, hrest⟩ := decodeSymbolFrom_succ_eq_some_iff.mp h
    obtain ⟨-, -, -, rfl⟩ := bit_eq_some_iff.mp hb
    obtain ⟨-, -, -, rfl⟩ | ⟨-, hrest⟩ := hrest
    · exact Nat.lt_succ_self pos
    · exact Nat.lt_of_succ_lt (ih hrest)

/-- No code is shorter than one bit (R153). -/
theorem decodeSymbol_consumes {table : List HuffCode} {pos s p : Nat} (h : decodeSymbol table z pos = some (s, p)) :
    pos < p :=
  decodeSymbolFrom_consumes h

theorem readClLens_consumes {order cl cl' : List Nat} {pos p : Nat}
    (h : readClLens z order cl pos = some (cl', p)) : pos ≤ p := by
  induction order generalizing cl pos with
  | nil =>
    cases h
    exact le_rfl
  | cons s order ih =>
    obtain ⟨v, q, hv, hrest⟩ := readClLens_cons_eq_some_iff.mp h
    have hq := bits_consumes hv
    have hp := ih hrest
    omega

theorem lengthRun_consumes {s : Nat} {lens run : List Nat} {pos p : Nat}
    (h : lengthRun z s lens pos = some (run, p)) : pos ≤ p := by
  obtain ⟨-, -, rfl⟩ | ⟨-, -, -, n, -, hn, -⟩ | ⟨-, n, hn, -⟩ | ⟨-, n, hn, -⟩ := lengthRun_eq_some_iff.mp h
  · exact le_rfl
  all_goals
    have hp := bits_consumes hn
    omega

theorem readLengths_consumes {clcode : List HuffCode} {total fuel : Nat} {lens lens' : List Nat} {pos p : Nat}
    (h : readLengths z clcode total fuel lens pos = some (lens', p)) : pos ≤ p := by
  induction fuel generalizing lens pos with
  | zero =>
    obtain ⟨-, -, hp⟩ := readLengths_zero_eq_some_iff.mp h
    exact hp.le
  | succ fuel ih =>
    obtain ⟨-, -, hp⟩ | ⟨-, s, q, run, q', hs, hrun, -, hrest⟩ := readLengths_succ_eq_some_iff.mp h
    · exact hp.le
    · have h1 := decodeSymbol_consumes hs
      have h2 := lengthRun_consumes hrun
      have h3 := ih hrest
      omega

theorem dynamicHeader_consumes {pos : Nat} {lit dist : List HuffCode} {p : Nat}
    (h : dynamicHeader z pos = some (lit, dist, p)) : pos ≤ p := by
  obtain ⟨f1, p1, f2, p2, f3, p3, cl, p4, lens, h1, h2, h3, -, -, hcl, -, hlens, -⟩ :=
    dynamicHeader_eq_some_iff.mp h
  have h1 := bits_consumes h1
  have h2 := bits_consumes h2
  have h3 := bits_consumes h3
  have h4 := readClLens_consumes hcl
  have h5 := readLengths_consumes hlens
  omega

theorem readDistance_consumes {dist : List HuffCode} {pos d p : Nat} (h : readDistance z dist pos = some (d, p)) :
    pos < p := by
  obtain ⟨s, q, extra, -, hs, -, hextra, -⟩ := readDistance_eq_some_iff.mp h
  have h1 := decodeSymbol_consumes hs
  have h2 := bits_consumes hextra
  omega

/-- R156: the longest length is 258, by symbol 285 or by symbol 284 with all its extra bits set. -/
theorem lengthBase_add_le {k extra : Nat} (hextra : extra < 2 ^ lengthExtra.getD k 0) :
    lengthBase.getD k 0 + extra ≤ 258 := by
  have htable : ∀ k < 29, lengthBase.getD k 0 + 2 ^ lengthExtra.getD k 0 ≤ 259 := by decide
  obtain hk | hk := Nat.lt_or_ge k 29
  · have := htable k hk
    omega
  · rw [List.getD_eq_default _ _ hk] at hextra ⊢
    omega

theorem readPair_consumes {dist : List HuffCode} {k pos len d p : Nat}
    (h : readPair z dist k pos = some (len, d, p)) : pos < p ∧ len ≤ 258 := by
  obtain ⟨extra, q, hextra, hd, rfl⟩ := readPair_eq_some_iff.mp h
  have h1 := bits_consumes hextra
  have h2 := readDistance_consumes hd
  exact ⟨by omega, lengthBase_add_le (bits_lt hextra)⟩

theorem huffmanTurn_literal_consumes {lit dist : List HuffCode} {pos p : Nat} {b : Byte}
    (h : huffmanTurn z lit dist pos = some (.literal b p)) : pos < p := by
  obtain ⟨s, q, hs, ⟨-, ht⟩ | ⟨-, ht⟩ | ⟨-, -, len, d, r, -, ht⟩⟩ := huffmanTurn_eq_some_iff.mp h <;> cases ht
  exact decodeSymbol_consumes hs

theorem huffmanTurn_endOfBlock_consumes {lit dist : List HuffCode} {pos p : Nat}
    (h : huffmanTurn z lit dist pos = some (.endOfBlock p)) : pos < p := by
  obtain ⟨s, q, hs, ⟨-, ht⟩ | ⟨-, ht⟩ | ⟨-, -, len, d, r, -, ht⟩⟩ := huffmanTurn_eq_some_iff.mp h <;> cases ht
  exact decodeSymbol_consumes hs

/-- A bit at least for the length symbol and one for the distance symbol. -/
theorem huffmanTurn_pair_consumes {lit dist : List HuffCode} {pos len d p : Nat}
    (h : huffmanTurn z lit dist pos = some (.pair len d p)) : pos + 2 ≤ p ∧ len ≤ 258 := by
  obtain ⟨s, q, hs, ⟨-, ht⟩ | ⟨-, ht⟩ | ⟨-, -, len, d, r, hpair, ht⟩⟩ := huffmanTurn_eq_some_iff.mp h <;> cases ht
  have h1 := decodeSymbol_consumes hs
  obtain ⟨h2, hlen⟩ := readPair_consumes hpair
  exact ⟨by omega, hlen⟩

@[simp] theorem copyBack_length (dist n : Nat) (out : Bytes) : (copyBack dist n out).length = out.length + n := by
  induction n generalizing out with
  | zero => rfl
  | succ n ih =>
    rw [copyBack, ih, List.length_cons]
    omega

/-- The output so far against the bits read so far, the invariant of `Inflate` behind the bound of R160. -/
def OutputWithin (pos : Nat) (out : Bytes) : Prop := out.length ≤ 129 * pos

theorem OutputWithin.mono {pos pos' : Nat} {out : Bytes} (h : OutputWithin pos out) (hpos : pos ≤ pos') :
    OutputWithin pos' out :=
  Nat.le_trans h (Nat.mul_le_mul_left 129 hpos)

theorem huffmanBlock_outputWithin {lit dist : List HuffCode} {fuel pos p : Nat} {out out' : Bytes}
    (hin : OutputWithin pos out) (h : huffmanBlock z lit dist fuel pos out = some (p, out')) :
    OutputWithin p out' := by
  induction fuel generalizing pos out with
  | zero => cases h
  | succ fuel ih =>
    obtain ⟨b, q, hturn, hrest⟩ | ⟨q, hturn, hr⟩ | ⟨len, d, q, hturn, -, hrest⟩ :=
      huffmanBlock_succ_eq_some_iff.mp h
    · have hq := huffmanTurn_literal_consumes hturn
      refine ih ?_ hrest
      simp only [OutputWithin, List.length_cons] at hin ⊢
      omega
    · cases hr
      exact hin.mono (huffmanTurn_endOfBlock_consumes hturn).le
    · obtain ⟨hq, hlen⟩ := huffmanTurn_pair_consumes hturn
      refine ih ?_ hrest
      simp only [OutputWithin, copyBack_length] at hin ⊢
      omega

theorem storedBlock_outputWithin {pos p : Nat} {out out' : Bytes} (hin : OutputWithin pos out)
    (h : storedBlock z pos out = some (p, out')) : OutputWithin p out' := by
  obtain ⟨len, p1, nlen, p2, hlen, hnlen, -, -, rfl, rfl⟩ := storedBlock_eq_some_iff.mp h
  have h1 := bits_consumes hlen
  have h2 := bits_consumes hnlen
  have hdata : ((z.drop (p2 / 8)).take len).length ≤ len := List.length_take_le ..
  simp only [OutputWithin, List.length_append, List.length_reverse] at hin ⊢
  omega

theorem blockBody_outputWithin {btype pos p : Nat} {out out' : Bytes} (hin : OutputWithin pos out)
    (h : blockBody z btype pos out = some (p, out')) : OutputWithin p out' := by
  obtain ⟨-, hbody⟩ | ⟨-, hbody⟩ | ⟨-, lit, dist, q, hheader, hbody⟩ := blockBody_eq_some_iff.mp h
  · exact storedBlock_outputWithin hin hbody
  · exact huffmanBlock_outputWithin hin hbody
  · exact huffmanBlock_outputWithin (hin.mono (dynamicHeader_consumes hheader)) hbody

theorem inflateBlocks_outputWithin {fuel pos p : Nat} {out out' : Bytes} (hin : OutputWithin pos out)
    (h : inflateBlocks z fuel pos out = some (p, out')) : OutputWithin p out' := by
  induction fuel generalizing pos out with
  | zero => cases h
  | succ fuel ih =>
    obtain ⟨bfinal, p1, btype, p2, p3, out3, hfinal, htype, hbody, hrest⟩ := inflateBlocks_succ_eq_some_iff.mp h
    have h1 := bits_consumes hfinal
    have h2 := bits_consumes htype
    have h3 := blockBody_outputWithin (hin.mono (by omega)) hbody
    obtain ⟨-, hr⟩ | ⟨-, hrest⟩ := hrest
    · cases hr
      exact h3
    · exact ih h3 hrest

/-- The first bit of the empty string is already missing. -/
theorem inflate_nil : inflate [] = none := rfl

/-- The last block ends within the stream, so its bits are at most `8 * z.length`. -/
theorem inflate_length_le {payload : Bytes} (h : inflate z = some payload) : payload.length ≤ 1032 * z.length := by
  obtain ⟨pos, out, hblocks, hend, rfl⟩ := inflate_eq_some_iff.mp h
  have hout : OutputWithin pos out := inflateBlocks_outputWithin (Nat.zero_le _) hblocks
  simp only [OutputWithin] at hout
  rw [List.length_reverse]
  omega

/-- Settles O57, by the bound of 129 bytes for each bit. -/
theorem inflateOutputBounded : Obligations.InflateOutputBounded :=
  ⟨inflate_nil, fun _ _ h => Nat.lt_of_le_of_lt (inflate_length_le h) (Nat.lt_add_of_pos_right (by decide))⟩

end Sys2Proof.Machine
end

section
/-! The streams of `CompressStored` (42_compression.md R143, R148): what the reader finds in a stored block, and law L2. -/

namespace Sys2Proof.Machine

/-- The bits of one byte, read from its `k`-th on. -/
theorem bits_of_byte {z : Bytes} {i : Nat} {byte : Byte} (hbyte : z[i]? = some byte) (n k : Nat) (hk : k + n ≤ 8) :
    bits z n (8 * i + k) = some (byte.toNat / 2 ^ k % 2 ^ n, 8 * i + k + n) := by
  induction n generalizing k with
  | zero => simp [bits, Nat.mod_one]
  | succ n ih =>
    have hbit : bit z (8 * i + k) = some (byte.toNat / 2 ^ k % 2, 8 * i + k + 1) := by
      have hdiv : (8 * i + k) / 8 = i := by omega
      have hmod : (8 * i + k) % 8 = k := by omega
      rw [bit_eq_some_iff, hdiv, hmod]
      exact ⟨byte, hbyte, rfl, rfl⟩
    refine bits_succ_eq_some_iff.mpr ⟨_, _, byte.toNat / 2 ^ (k + 1) % 2 ^ n, hbit, ?_, ?_⟩
    · simpa only [Nat.add_assoc, Nat.add_comm 1] using ih (k + 1) (by omega)
    · rw [pow_succ' 2 n, Nat.mod_mul, Nat.pow_succ, Nat.div_div_eq_div_mul]

theorem bits_add {z : Bytes} {m n pos v p w q : Nat} (hv : bits z m pos = some (v, p))
    (hw : bits z n p = some (w, q)) : bits z (m + n) pos = some (v + 2 ^ m * w, q) := by
  induction m generalizing pos v with
  | zero =>
    obtain ⟨rfl, rfl⟩ := bits_zero_eq_some_iff.mp hv
    simpa using hw
  | succ m ih =>
    obtain ⟨b, p', v', hb, hv', rfl⟩ := bits_succ_eq_some_iff.mp hv
    rw [Nat.succ_add]
    refine bits_succ_eq_some_iff.mpr ⟨b, p', _, hb, ih hv', ?_⟩
    ring

/-- Whole bytes read from a byte boundary are a little-endian number (R148). -/
theorem bits_fromLE (pre bs post : Bytes) :
    bits (pre ++ bs ++ post) (8 * bs.length) (8 * pre.length) =
      some (fromLE bs, 8 * (pre.length + bs.length)) := by
  induction bs generalizing pre with
  | nil => rfl
  | cons b bs ih =>
    have hb : bits (pre ++ b :: bs ++ post) 8 (8 * pre.length) = some (b.toNat, 8 * (pre ++ [b]).length) := by
      have hget : (pre ++ b :: bs ++ post)[pre.length]? = some b := by simp
      have h := bits_of_byte hget 8 0 le_rfl
      rw [pow_zero, Nat.div_one, Nat.mod_eq_of_lt b.isLt] at h
      simpa [Nat.mul_add] using h
    have hbs := ih (pre ++ [b])
    rw [List.append_assoc pre [b] bs, List.singleton_append] at hbs
    have h := bits_add hb hbs
    rw [List.length_cons, Nat.mul_succ, Nat.add_comm (8 * bs.length) 8, fromLE, h]
    simp [Nat.add_assoc, Nat.add_comm 1]

theorem bits_leBytes (pre post : Bytes) (n v : Nat) (hv : v < 256 ^ n) :
    bits (pre ++ leBytes n v ++ post) (8 * n) (8 * pre.length) = some (v, 8 * (pre.length + n)) := by
  have h := bits_fromLE pre (leBytes n v) post
  rwa [leBytes_length, fromLE_leBytes n v hv] at h

@[simp] theorem storedChunk_length (last : Byte) (d : Bytes) : (storedChunk last d).length = d.length + 5 := by
  simp only [storedChunk, List.length_append, List.length_singleton, leBytes_length]
  omega

/-- R148: the length and its complement check, and the data follow them. -/
theorem storedBlock_storedChunk (pre post out : Bytes) (last : Byte) (d : Bytes) (hd : d.length ≤ Config.storedMax) :
    storedBlock (pre ++ storedChunk last d ++ post) (8 * pre.length + 3) out =
      some (8 * (pre ++ storedChunk last d).length, d.reverse ++ out) := by
  have hlen16 : d.length < 2 ^ 16 := Nat.lt_succ_of_le hd
  have hnlen16 : d.length ^^^ 0xffff < 2 ^ 16 := Nat.xor_lt_two_pow hlen16 (by decide)
  have halign : 8 * ((8 * pre.length + 3 + 7) / 8) = 8 * (pre ++ [last]).length := by
    rw [List.length_append, List.length_singleton]
    omega
  have hlen := bits_leBytes (pre ++ [last]) (leBytes 2 (d.length ^^^ 0xffff) ++ d ++ post) 2 d.length hlen16
  have hnlen := bits_leBytes (pre ++ [last] ++ leBytes 2 d.length) (d ++ post) 2 _ hnlen16
  have hdata : ((pre ++ storedChunk last d ++ post).drop (pre.length + 5)).take d.length = d := by
    have hz : pre ++ storedChunk last d ++ post =
        (pre ++ [last] ++ leBytes 2 d.length ++ leBytes 2 (d.length ^^^ 0xffff)) ++ (d ++ post) := by
      simp [storedChunk]
    rw [hz, List.drop_left' (by simp), List.take_left]
  rw [storedBlock_eq_some_iff]
  refine ⟨d.length, 8 * (pre.length + 3), d.length ^^^ 0xffff, 8 * (pre.length + 5), ?len, ?nlen, ?check, ?fits,
    ?pos, ?out⟩
  case len =>
    rw [halign]
    simpa [storedChunk] using hlen
  case nlen => simpa [storedChunk, Nat.add_assoc] using hnlen
  case check => rw [← Nat.xor_assoc, Nat.xor_self, Nat.zero_xor]
  case fits =>
    simp only [List.length_append, storedChunk_length]
    omega
  case pos =>
    simp only [List.length_append, storedChunk_length]
    omega
  case out => rw [Nat.mul_div_cancel_left _ (by decide : 0 < 8), hdata]

/-- The first byte of a stored block holds BFINAL and five zero bits above a zero BTYPE (R143). -/
theorem inflateBlocks_storedChunk (pre post out : Bytes) (last : Byte) (d : Bytes) (fuel : Nat)
    (hlast : last.toNat < 2) (hd : d.length ≤ Config.storedMax) :
    inflateBlocks (pre ++ storedChunk last d ++ post) (fuel + 1) (8 * pre.length) out =
      if last.toNat = 1 then some (8 * (pre ++ storedChunk last d).length, d.reverse ++ out)
      else inflateBlocks (pre ++ storedChunk last d ++ post) fuel (8 * (pre ++ storedChunk last d).length)
        (d.reverse ++ out) := by
  have hget : (pre ++ storedChunk last d ++ post)[pre.length]? = some last := by simp [storedChunk]
  have hfinal : bits (pre ++ storedChunk last d ++ post) 1 (8 * pre.length) =
      some (last.toNat, 8 * pre.length + 1) := by
    have h := bits_of_byte hget 1 0 (by decide)
    rwa [pow_zero, pow_one, Nat.div_one, Nat.mod_eq_of_lt hlast] at h
  have htype : bits (pre ++ storedChunk last d ++ post) 2 (8 * pre.length + 1) = some (0, 8 * pre.length + 3) := by
    have h := bits_of_byte hget 2 1 (by decide)
    rwa [pow_one, Nat.div_eq_of_lt hlast] at h
  rw [inflateBlocks]
  simp only [hfinal, htype, blockBody, storedBlock_storedChunk pre post out last d hd]

theorem storedFrom_of_le (n : Nat) {p : Bytes} (hp : p.length ≤ Config.storedMax) :
    storedFrom n p = storedChunk 1#8 p := by
  cases n with
  | zero => rw [storedFrom, List.take_of_length_le hp]
  | succ n => rw [storedFrom, if_pos hp]

theorem storedFrom_succ_of_gt (n : Nat) {p : Bytes} (hp : Config.storedMax < p.length) :
    storedFrom (n + 1) p =
      storedChunk 0#8 (p.take Config.storedMax) ++ storedFrom n (p.drop Config.storedMax) := by
  rw [storedFrom, if_neg (Nat.not_le.mpr hp)]

theorem inflateBlocks_storedFrom_of_le (n fuel : Nat) (pre p out : Bytes) (hp : p.length ≤ Config.storedMax) :
    inflateBlocks (pre ++ storedFrom n p) (fuel + 1) (8 * pre.length) out =
      some (8 * (pre ++ storedFrom n p).length, p.reverse ++ out) := by
  have h := inflateBlocks_storedChunk pre [] out 1#8 p fuel (by decide) hp
  rwa [List.append_nil, if_pos (by decide), ← storedFrom_of_le n hp] at h

/-- `n + 1` blocks are enough for the payload, and as much fuel is for them. -/
theorem inflateBlocks_storedFrom (n fuel : Nat) (pre p out : Bytes) (hp : p.length ≤ (n + 1) * Config.storedMax)
    (hfuel : n < fuel) :
    inflateBlocks (pre ++ storedFrom n p) fuel (8 * pre.length) out =
      some (8 * (pre ++ storedFrom n p).length, p.reverse ++ out) := by
  induction n generalizing pre p out fuel with
  | zero =>
    obtain ⟨fuel, rfl⟩ := Nat.exists_eq_add_one_of_ne_zero hfuel.ne'
    exact inflateBlocks_storedFrom_of_le 0 fuel pre p out (by simpa using hp)
  | succ n ih =>
    obtain ⟨fuel, rfl⟩ := Nat.exists_eq_add_one_of_ne_zero (Nat.ne_zero_of_lt hfuel)
    obtain hle | hgt := le_or_gt p.length Config.storedMax
    · exact inflateBlocks_storedFrom_of_le (n + 1) fuel pre p out hle
    · have hrest : (p.drop Config.storedMax).length ≤ (n + 1) * Config.storedMax := by
        rw [List.length_drop]
        rw [Nat.succ_mul] at hp
        omega
      have hchunk := inflateBlocks_storedChunk pre (storedFrom n (p.drop Config.storedMax)) out 0#8
        (p.take Config.storedMax) fuel (by decide) (List.length_take_le ..)
      have hout : (p.drop Config.storedMax).reverse ++ ((p.take Config.storedMax).reverse ++ out) =
          p.reverse ++ out := by
        rw [← List.append_assoc, ← List.reverse_append, List.take_append_drop]
      rw [storedFrom_succ_of_gt n hgt, ← List.append_assoc, hchunk, if_neg (by decide),
        ih fuel _ _ _ hrest (by omega), hout]

theorem storedFrom_length (n : Nat) (p : Bytes) (hp : p.length ≤ (n + 1) * Config.storedMax) :
    (storedFrom n p).length = p.length + 5 * max 1 ((p.length + 65534) / 65535) := by
  induction n generalizing p with
  | zero =>
    have hle : p.length ≤ Config.storedMax := by simpa using hp
    rw [storedFrom_of_le 0 hle, storedChunk_length]
    simp only [Config.storedMax] at hle
    omega
  | succ n ih =>
    obtain hle | hgt := le_or_gt p.length Config.storedMax
    · rw [storedFrom_of_le (n + 1) hle, storedChunk_length]
      simp only [Config.storedMax] at hle
      omega
    · rw [storedFrom_succ_of_gt n hgt, List.length_append, storedChunk_length, ih, List.length_take, List.length_drop]
      · simp only [Config.storedMax] at hgt ⊢
        omega
      · simp only [Config.storedMax, List.length_drop] at hp ⊢
        omega

theorem length_le_blocks_mul_storedMax (p : Bytes) :
    p.length ≤ (p.length / Config.storedMax + 1) * Config.storedMax := by
  simp only [Config.storedMax]
  omega

theorem compressStored_length (p : Bytes) :
    (compressStored p).length = p.length + 5 * max 1 ((p.length + 65534) / 65535) :=
  storedFrom_length _ p (length_le_blocks_mul_storedMax p)

/-- Law L2 of R141 for the reference compressor. -/
theorem inflate_compressStored (p : Bytes) : inflate (compressStored p) = some p := by
  have hfuel : p.length / Config.storedMax < 8 * (compressStored p).length + 1 := by
    have hlen := compressStored_length p
    have hdiv : p.length / Config.storedMax ≤ p.length := Nat.div_le_self ..
    omega
  have hblocks := inflateBlocks_storedFrom _ _ [] p [] (length_le_blocks_mul_storedMax p) hfuel
  refine inflate_eq_some_iff.mpr ⟨_, _, hblocks, ?_, ?_⟩
  · simp only [List.nil_append, compressStored]
    omega
  · rw [List.append_nil, List.reverse_reverse]

/-- Settles O55, by induction on the blocks of the stream. -/
theorem storedCompressionInflates : Obligations.StoredCompressionInflates :=
  fun p => ⟨inflate_compressStored p, compressStored_length p⟩

theorem inflate_of_conforms {p z : Bytes} (h : conforms p z) : inflate z = some p := by
  simp only [conforms, Bool.and_eq_true, beq_iff_eq] at h
  obtain ⟨hz, -⟩ := h
  exact hz

/-- Law L2 of R141, whichever of the two streams the block emits. -/
theorem inflate_compress (p : Bytes) : inflate (compress p) = some p := by
  unfold compress
  split
  case isTrue hconforms => exact inflate_of_conforms hconforms
  case isFalse => exact inflate_compressStored p

theorem compress_ne_nil (p : Bytes) : compress p ≠ [] := by
  intro h
  have hp := inflate_compress p
  rw [h, inflate_nil] at hp
  cases hp

/-- A payload is read back from its stream. -/
theorem compress_injective : Function.Injective compress := by
  intro p q h
  have hp := inflate_compress p
  rw [h, inflate_compress q] at hp
  exact (Option.some.inj hp).symm

/-- Settles O56: law L2, and what follows from it. -/
theorem compressObeysItsLaw : Obligations.CompressObeysItsLaw :=
  ⟨fun p => ⟨inflate_compress p, compress_ne_nil p⟩, fun _ _ h => compress_injective h⟩

end Sys2Proof.Machine
end

section
/-! TX_INIT (43_tx_encode.md R180) and the two closing commands (43_tx_encode.md R189, 44_rx_decode.md R208). What decides the outcome of an `*_INIT` is said once for both directions. -/

namespace Sys2Proof.Machine

theorem initDir_of_not_unconfigured (d : Side) (key iv : Bytes) (s : State) (h : (s.dir d).status ≠ .unconfigured) :
    initDir d key iv s = reject .illegalState s := if_pos h

theorem initDir_of_badLength (d : Side) (key iv : Bytes) (s : State) (h : (s.dir d).status = .unconfigured)
    (hlen : key.length ≠ 32 ∨ iv.length ≠ 16) : initDir d key iv s = reject .configurationError s := by
  rcases initDir_cases d key iv s with ⟨hstatus, _⟩ | ⟨_, _, hinit⟩ | ⟨_, hkey, hiv, _⟩
  · exact absurd h hstatus
  · exact hinit
  · exact absurd hlen (by simp [hkey, hiv])

theorem initDir_of_goodLength (d : Side) (key iv : Bytes) (s : State) (h : (s.dir d).status = .unconfigured)
    (hkey : key.length = 32) (hiv : iv.length = 16) :
    ∃ (k : Key) (v : Block), k.toList = key ∧ v.toList = iv ∧
      initDir d key iv s =
        (s.setDir d { status := .ready, err := 0#4, key := k, shift := v, ctr := 0#64 }).respond .ok [] := by
  rcases initDir_cases d key iv s with ⟨hstatus, _⟩ | ⟨_, hlen, _⟩ | ⟨_, _, _, hinit⟩
  · exact absurd h hstatus
  · exact absurd hlen (by simp [hkey, hiv])
  · exact hinit

theorem exec_txInit (key iv : Bytes) (s : State) : exec (.txInit key iv) s = .next (initDir .tx key iv s) := rfl

/-- Settles O20: the status decides first, then the two lengths. -/
theorem txInitOutcomes : Obligations.TxInitOutcomes := by
  refine fun s key iv => ⟨fun hstatus => ?illegalState, fun hstatus hlen => ?configurationError,
    fun hstatus hkey hiv => ?ok⟩
  case illegalState => rw [exec_txInit, initDir_of_not_unconfigured .tx key iv s hstatus, reject_eq]
  case configurationError => rw [exec_txInit, initDir_of_badLength .tx key iv s hstatus hlen, reject_eq]
  case ok =>
    obtain ⟨k, v, hk, hv, hinit⟩ := initDir_of_goodLength .tx key iv s hstatus hkey hiv
    exact ⟨k, v, hk, hv, by rw [exec_txInit, hinit]; rfl⟩

theorem exec_txClose (s : State) : exec .txClose s = .next ((closeDir .tx s).respond .ok []) := rfl

theorem exec_rxClose (s : State) : exec .rxClose s = .next ((closeDir .rx s).respond .ok []) := rfl

/-- Settles O22: a closed direction is `Dir.reset`, whose fields the statement writes out. -/
theorem closeCommandsResult : Obligations.CloseCommandsResult := by
  refine fun s => ⟨?_, ?_⟩
  · rw [exec_txClose, closeDir_tx]; rfl
  · rw [exec_rxClose, closeDir_rx]; rfl

end Sys2Proof.Machine
end

section
/-! The TX datapath, stage by stage (43_tx_encode.md R182 to R188) and as the whole command (R181, R185), in the spec's own functions. -/

namespace Sys2Proof.Machine

theorem tag_eq_sha256 (c : Bytes) (ctr : Ctr) (key : Key) :
    tag c ctr key = (sha256 (leBytes 8 ctr.toNat ++ c ++ key.toList)).take 8 := rfl

theorem encryptBytes_wire (key : Key) (s : Block) (p : Bytes) : (encryptBytes key s p).1 = (cfb8Enc aes256 key s p).1 :=
  rfl

theorem encryptBytes_shift (key : Key) (s : Block) (p : Bytes) :
    (encryptBytes key s p).2 = lastSixteen (s.toList ++ (cfb8Enc aes256 key s p).1) :=
  cfb8Enc_shift aes256 key s p

theorem txPacket_eq (s : State) (payload : Bytes) :
    txPacket s payload =
      compress payload ++ (sha256 (leBytes 8 s.tx.ctr.toNat ++ compress payload ++ s.tx.key.toList)).take 8 := by
  rw [txPacket, tag_eq_sha256]

theorem txPacket_length (s : State) (payload : Bytes) : (txPacket s payload).length = (compress payload).length + 8 := by
  rw [txPacket, List.length_append, tag_length]

theorem consumeFault_tx (s : State) :
    consumeFault .tx s = { s with txEnv := { s.txEnv with faults := s.txEnv.faults.tail } } := rfl

theorem exec_txCipherEncrypt_faultFree (s : State) (pkt : Bytes) (h : s.txFlight = some (.cipherEncrypt pkt))
    (hfault : s.txEnv.faults.headD false = false) :
    exec .txCipherEncrypt s =
      .next { s with
        tx := { s.tx with shift := lastSixteen (s.tx.shift.toList ++ (cfb8Enc aes256 s.tx.key s.tx.shift pkt).1) },
        txFlight := some (.emit (cfb8Enc aes256 s.tx.key s.tx.shift pkt).1),
        txEnv := { s.txEnv with faults := s.txEnv.faults.tail } } := by
  have hnone : cipherFault .tx s = false := hfault
  calc exec .txCipherEncrypt s
    _ = execTxCipherEncrypt s := rfl
    _ = _ := by simp [execTxCipherEncrypt_due s pkt h, hnone, consumeFault_tx, encryptBytes_wire, encryptBytes_shift]

theorem exec_txCipherEncrypt_fault (s : State) (pkt : Bytes) (h : s.txFlight = some (.cipherEncrypt pkt))
    (hfault : s.txEnv.faults.headD false = true) :
    exec .txCipherEncrypt s =
      .next { s with
        tx := { s.tx with status := .dead, err := 4#4, shift := Config.freeShift true s.txEnv.draws },
        txFlight := none, txEnv := { faults := s.txEnv.faults.tail, draws := s.txEnv.draws + 1 },
        out := s.out ++ [.event (.onError .tx .cipherError), .response ⟨.cipherError, []⟩] } := by
  have hdrawn : cipherFault .tx s = true := hfault
  calc exec .txCipherEncrypt s
    _ = execTxCipherEncrypt s := rfl
    _ = _ := by simp [execTxCipherEncrypt_due s pkt h, hdrawn, consumeFault_tx, raiseCipherError_tx]

/-- Settles O32, by what each stage does on its own latch. -/
theorem txCompressTagAppendStages : Obligations.TxCompressTagAppendStages := by
  refine ⟨execTxCompress_due, fun s c h => ?tagCompute, execTxTagAppend_due⟩
  case tagCompute =>
    rw [← tag_eq_sha256]
    exact execTxTagCompute_due s c h

/-- Settles O34: the cipher stage without and with a fault, then the delivery. -/
theorem txCipherAndEmitStages : Obligations.TxCipherAndEmitStages := by
  refine ⟨?faultFree, fun s pkt h hfault => ⟨_, _, exec_txCipherEncrypt_fault s pkt h hfault⟩, execTxEmit_due⟩
  case faultFree =>
    rintro s pkt _ h hfault rfl
    exact ⟨cfb8Enc_length aes256 s.tx.key s.tx.shift pkt, exec_txCipherEncrypt_faultFree s pkt h hfault⟩

/-- Settles O23: the packet is `txPacket`, and the shift register after it is the last 16 bytes shifted in. -/
theorem txEncodeDelivers : Obligations.TxEncodeDelivers := by
  rintro s payload _ _ _ hready hadmitted hctr hfault rfl rfl rfl
  rw [← txPacket_eq]
  have hwithin := (withinSpec_iff_admitted s.limits.maxPayload payload).mpr hadmitted
  refine ⟨?_, by rw [cfb8Enc_length, txPacket_length]⟩
  calc exec (.txEncode payload) s
    _ = execTxEncode payload s := rfl
    _ = _ := by rw [execTxEncode_delivers s payload hready hwithin hctr hfault, encryptBytes_wire, encryptBytes_shift]

end Sys2Proof.Machine
end

section
/-! A command runs its stages as the block's own steps would run them one by one (43_tx_encode.md R190, 44_rx_decode.md R201): the sequencer of a datapath is a run of the core. -/

namespace Sys2Proof.Machine

theorem core_run_succ (n : Nat) (s t : State) (h : step s = .next t) :
    Sys2Proof.core.run (n + 1) s = Sys2Proof.core.run n t := by
  have hcore : Sys2Proof.core.step s = .next t := h
  simp only [Host.Core.run, hcore]

theorem step_txStage (s : State) (f : TxFlight) (h : s.txFlight = some f) : step s = txStage f s := by
  rw [step_txDue s f h, exec_txDue]

theorem step_rxStage (s : State) (f : RxFlight) (htx : s.txFlight = none) (h : s.rxFlight = some f) :
    step s = rxStage f s := by
  rw [step_rxDue s f htx h, exec_rxDue]

/-- An RX stage leaves the TX latch empty, so that a step finds the next RX stage due. -/
theorem rxStage_answers_keeps_txFlight (f : RxFlight) (s : State) :
    ∃ t, rxStage f s = .next t ∧ t.txFlight = s.txFlight := by
  obtain ⟨u, hu, _⟩ := rxStage_answers f (s.view .rx)
  exact ⟨s.graft .rx u, by rw [rxStage_local f s, hu, graftOutcome_next], rfl⟩

theorem core_run_eq_runTxStages (fuel : Nat) (s : State) :
    ∃ n ≤ fuel, Sys2Proof.core.run n s = runTxStages fuel s := by
  induction fuel generalizing s with
  | zero => exact ⟨0, le_rfl, rfl⟩
  | succ fuel ih =>
    cases hf : s.txFlight with
    | none => exact ⟨0, Nat.zero_le _, (runTxStages_done _ s hf).symm⟩
    | some f =>
      obtain ⟨t, ht, _⟩ := txStage_answers f s
      obtain ⟨n, hn, hrun⟩ := ih t
      refine ⟨n + 1, Nat.succ_le_succ hn, ?_⟩
      rw [core_run_succ n s t ((step_txStage s f hf).trans ht), hrun, runTxStages_next fuel s t f hf ht]

theorem core_run_eq_runRxStages (fuel : Nat) (s : State) (htx : s.txFlight = none) :
    ∃ n ≤ fuel, Sys2Proof.core.run n s = runRxStages fuel s := by
  induction fuel generalizing s with
  | zero => exact ⟨0, le_rfl, rfl⟩
  | succ fuel ih =>
    cases hf : s.rxFlight with
    | none => exact ⟨0, Nat.zero_le _, (runRxStages_done _ s hf).symm⟩
    | some f =>
      obtain ⟨t, ht, hkeep⟩ := rxStage_answers_keeps_txFlight f s
      obtain ⟨n, hn, hrun⟩ := ih t (hkeep.trans htx)
      refine ⟨n + 1, Nat.succ_le_succ hn, ?_⟩
      rw [core_run_succ n s t ((step_rxStage s f htx hf).trans ht), hrun, runRxStages_next fuel s t f hf ht]

theorem exec_txEncode_of_ready (s : State) (payload : Bytes) (h : s.tx.status = .ready)
    (hadmitted : admitted s.limits.maxPayload payload) :
    exec (.txEncode payload) s = runTxStages 6 { s with txFlight := some (.compress payload) } := by
  simp [exec, execTxEncode, h, (withinSpec_iff_admitted _ _).mpr hadmitted]

theorem exec_rxDecode_of_ready (s : State) (wire : Bytes) (h : s.rx.status = .ready)
    (hadmitted : admitted s.limits.maxWire wire) :
    exec (.rxDecode wire) s = runRxStages 7 { s with rxFlight := some (.cipherDecrypt wire) } := by
  simp [exec, execRxDecode, h, (withinSpec_iff_admitted _ _).mpr hadmitted]

/-- Settles O38: each command is its sequencer on the first latch, and the sequencer is a run of the core. -/
theorem commandIsItsStagesInOrder : Obligations.CommandIsItsStagesInOrder := by
  refine ⟨fun s payload hready hadmitted => ?tx, fun s wire htx hready hadmitted => ?rx⟩
  case tx => rw [exec_txEncode_of_ready s payload hready hadmitted]; exact core_run_eq_runTxStages 6 _
  case rx => rw [exec_rxDecode_of_ready s wire hready hadmitted]; exact core_run_eq_runRxStages 7 _ htx

end Sys2Proof.Machine
end

section
/-! RX_INIT and the RX datapath, stage by stage (44_rx_decode.md R200, R202 to R207) and as the whole command (R201, R210, R213), in the spec's own functions. -/

namespace Sys2Proof.Machine

theorem exec_rxInit (key iv : Bytes) (s : State) : exec (.rxInit key iv) s = .next (initDir .rx key iv s) := rfl

/-- Settles O21: the status decides first, then the two lengths. -/
theorem rxInitOutcomes : Obligations.RxInitOutcomes := by
  refine fun s key iv => ⟨fun hstatus => ?illegalState, fun hstatus hlen => ?configurationError,
    fun hstatus hkey hiv => ?ok⟩
  case illegalState => rw [exec_rxInit, initDir_of_not_unconfigured .rx key iv s hstatus, reject_eq]
  case configurationError => rw [exec_rxInit, initDir_of_badLength .rx key iv s hstatus hlen, reject_eq]
  case ok =>
    obtain ⟨k, v, hk, hv, hinit⟩ := initDir_of_goodLength .rx key iv s hstatus hkey hiv
    exact ⟨k, v, hk, hv, by rw [exec_rxInit, hinit]; rfl⟩

/-! What a stage finds in its latch. -/

theorem decryptBytes_packet (key : Key) (s : Block) (c : Bytes) : (decryptBytes key s c).1 = (cfb8Dec aes256 key s c).1 :=
  rfl

theorem decryptBytes_shift (key : Key) (s : Block) (c : Bytes) :
    (decryptBytes key s c).2 = lastSixteen (s.toList ++ c) := cfb8Dec_shift blockCipher key s c

@[simp] theorem decryptBytes_length (key : Key) (s : Block) (c : Bytes) : (decryptBytes key s c).1.length = c.length :=
  cfb8Dec_length blockCipher key s c

theorem decryptBytes_encryptBytes (key : Key) (s : Block) (p : Bytes) :
    decryptBytes key s (encryptBytes key s p).1 = (p, (encryptBytes key s p).2) :=
  cfb8Dec_cfb8Enc blockCipher key s p

/-- Ciphertexts are told apart by what they decrypt to (40_stream_cipher.md R97). -/
theorem decryptBytes_injective (key : Key) (s : Block) : Function.Injective fun c => (decryptBytes key s c).1 := by
  intro c c' h
  have hc : (encryptBytes key s (decryptBytes key s c).1).1 = c :=
    congrArg Prod.fst (cfb8Enc_cfb8Dec blockCipher key s c)
  have hc' : (encryptBytes key s (decryptBytes key s c').1).1 = c' :=
    congrArg Prod.fst (cfb8Enc_cfb8Dec blockCipher key s c')
  have hplain : (decryptBytes key s c).1 = (decryptBytes key s c').1 := h
  rw [← hc, ← hc', hplain]

theorem decryptBytes_append (key : Key) (s : Block) (a b : Bytes) :
    (decryptBytes key s (a ++ b)).1 = (decryptBytes key s a).1 ++ (decryptBytes key (decryptBytes key s a).2 b).1 :=
  congrArg Prod.fst (cfb8Dec_append blockCipher key s a b)

@[simp] theorem rxPacket_length (s : State) (wire : Bytes) : (rxPacket s wire).length = wire.length :=
  decryptBytes_length s.rx.key s.rx.shift wire

theorem rxBody_of_packet {s : State} {wire c t : Bytes} (h : rxPacket s wire = c ++ t) (ht : t.length = 8) :
    rxBody s wire = c := by
  rw [rxBody, h]
  exact List.take_left' (by simp [ht])

theorem rxTag_of_packet {s : State} {wire c t : Bytes} (h : rxPacket s wire = c ++ t) (ht : t.length = 8) :
    rxTag s wire = t := by
  rw [rxTag, h]
  exact List.drop_left' (by simp [ht])

theorem rxPacket_not_short {s : State} {wire c t : Bytes} (h : rxPacket s wire = c ++ t) (ht : t.length = 8) :
    ¬ (rxPacket s wire).length < 8 := by
  rw [h, List.length_append, ht]
  omega

/-- When a stream is delivered (42_compression.md R160): it inflates, within the bound where one is set. -/
theorem inflateWithin_eq_some_iff {bound : Option Nat} {z p : Bytes} :
    inflateWithin bound z = some p ↔ inflate z = some p ∧ ∀ m, bound = some m → p.length ≤ m := by
  unfold inflateWithin
  cases inflate z with
  | none => simp
  | some q =>
    cases bound with
    | none => simp
    | some m =>
      by_cases hq : q.length ≤ m
      · simp only [hq, if_true, Option.some.injEq]
        exact ⟨fun h => ⟨h, fun n hn => h ▸ hn ▸ hq⟩, And.left⟩
      · simp only [hq, if_false, Option.some.injEq, reduceCtorEq, false_iff]
        rintro ⟨rfl, hbound⟩
        exact hq (hbound m rfl)

theorem inflateWithin_eq_none {bound : Option Nat} {z : Bytes}
    (h : ∀ p, inflate z = some p → ∃ m, bound = some m ∧ m < p.length) : inflateWithin bound z = none := by
  refine Option.eq_none_iff_forall_ne_some.mpr fun p hp => ?_
  obtain ⟨hz, hbound⟩ := inflateWithin_eq_some_iff.mp hp
  obtain ⟨m, hm, hlt⟩ := h p hz
  exact absurd (hbound m hm) (Nat.not_le.mpr hlt)

/-! The stages. -/

theorem consumeFault_rx (s : State) :
    consumeFault .rx s = { s with rxEnv := { s.rxEnv with faults := s.rxEnv.faults.tail } } := rfl

theorem exec_rxCipherDecrypt_faultFree (s : State) (wire : Bytes) (h : s.rxFlight = some (.cipherDecrypt wire))
    (hfault : s.rxEnv.faults.headD false = false) :
    exec .rxCipherDecrypt s =
      .next { s with
        rx := { s.rx with shift := lastSixteen (s.rx.shift.toList ++ wire) },
        rxFlight := some (.split (cfb8Dec aes256 s.rx.key s.rx.shift wire).1),
        rxEnv := { s.rxEnv with faults := s.rxEnv.faults.tail } } := by
  have hnone : cipherFault .rx s = false := hfault
  calc exec .rxCipherDecrypt s
    _ = execRxCipherDecrypt s := rfl
    _ = _ := by simp [execRxCipherDecrypt_due s wire h, hnone, consumeFault_rx, decryptBytes_packet, decryptBytes_shift]

theorem exec_rxCipherDecrypt_fault (s : State) (wire : Bytes) (h : s.rxFlight = some (.cipherDecrypt wire))
    (hfault : s.rxEnv.faults.headD false = true) :
    exec .rxCipherDecrypt s =
      .next { s with
        rx := { s.rx with status := .dead, err := 4#4, shift := Config.freeShift false s.rxEnv.draws },
        rxFlight := none, rxEnv := { faults := s.rxEnv.faults.tail, draws := s.rxEnv.draws + 1 },
        out := s.out ++ [.event (.onError .rx .cipherError), .response ⟨.cipherError, []⟩] } := by
  have hdrawn : cipherFault .rx s = true := hfault
  calc exec .rxCipherDecrypt s
    _ = execRxCipherDecrypt s := rfl
    _ = _ := by simp [execRxCipherDecrypt_due s wire h, hdrawn, consumeFault_rx, raiseCipherError_rx]

theorem exec_rxSplit_of_packet (s : State) (c r : Bytes) (h : s.rxFlight = some (.split (c ++ r))) (hr : r.length = 8) :
    exec .rxSplit s = .next { s with rxFlight := some (.tagCompute c r) } := by
  have hlen : (c ++ r).length - 8 = c.length := by simp [hr]
  calc exec .rxSplit s
    _ = execRxSplit s := rfl
    _ = _ := by
      rw [execRxSplit_due s _ h, if_neg (by simp [hr]), hlen, List.take_left, List.drop_left]

theorem exec_rxSplit_of_short (s : State) (pkt : Bytes) (h : s.rxFlight = some (.split pkt)) (hlen : pkt.length < 8) :
    exec .rxSplit s = .next { s with rxFlight := some .ctrIncShort } := by
  calc exec .rxSplit s
    _ = execRxSplit s := rfl
    _ = _ := by rw [execRxSplit_due s pkt h, if_pos hlen]

/-- Settles O35: the cipher stage without and with a fault, the split of a long and of a short packet, the expected tag. -/
theorem rxDecryptSplitTagStages : Obligations.RxDecryptSplitTagStages := by
  refine ⟨?faultFree, fun s wire h hfault => ⟨_, _, exec_rxCipherDecrypt_fault s wire h hfault⟩,
    exec_rxSplit_of_packet, exec_rxSplit_of_short, fun s c r h => ?tagCompute⟩
  case faultFree =>
    rintro s wire _ h hfault rfl
    exact ⟨cfb8Dec_length aes256 s.rx.key s.rx.shift wire, exec_rxCipherDecrypt_faultFree s wire h hfault⟩
  case tagCompute =>
    rw [← tag_eq_sha256]
    exact execRxTagCompute_due s c r h

theorem exec_rxTagCompare (s : State) : exec .rxTagCompare s = execRxTagCompare s := rfl

theorem exec_rxDecompress (s : State) : exec .rxDecompress s = execRxDecompress s := rfl

/-- Settles O36: the comparison and the decompression each go on or end in their error; the delivery. -/
theorem rxCompareDecompressEmitStages : Obligations.RxCompareDecompressEmitStages := by
  refine ⟨fun s c r h => ?equal, fun s c r x h hne => ?different, fun s c payload h hz hbound => ?inflates,
    fun s c h hz => ?badStream, execRxEmit_due⟩
  case equal => rw [exec_rxTagCompare, execRxTagCompare_due s c r r h, if_pos rfl]
  case different =>
    rw [exec_rxTagCompare, execRxTagCompare_due s c r x h, if_neg hne, raiseFatal_rx]
    rfl
  case inflates =>
    rw [exec_rxDecompress, execRxDecompress_due s c h, inflateWithin_eq_some_iff.mpr ⟨hz, hbound⟩]
  case badStream =>
    rw [exec_rxDecompress, execRxDecompress_due s c h, inflateWithin_eq_none hz]
    exact congrArg Host.Outcome.next (raiseFatal_rx .compressionError s)

/-! The whole command. -/

/-- Settles O24: the packet is `rxPacket`, split 8 bytes before its end, and the shift register after it is the last 16 bytes shifted in. -/
theorem rxDecodeDelivers : Obligations.RxDecodeDelivers := by
  rintro s wire _ _ payload hready hadmitted hctr hfault rfl hlen rfl htag hinflate hbound
  have hwithin := (withinSpec_iff_admitted s.limits.maxWire wire).mpr hadmitted
  have hlong : ¬ (rxPacket s wire).length < 8 := by rw [rxPacket_length]; omega
  have hbody : rxBody s wire = (cfb8Dec aes256 s.rx.key s.rx.shift wire).1.take (wire.length - 8) := by
    rw [rxBody, rxPacket_length, rxPacket, decryptBytes_packet]
  have hrxTag : rxTag s wire = tag (rxBody s wire) s.rx.ctr s.rx.key := by
    rw [hbody, tag_eq_sha256, ← htag, rxTag, rxPacket_length, rxPacket, decryptBytes_packet]
  have hstream : inflateWithin s.limits.maxInflate (rxBody s wire) = some payload := by
    rw [hbody]
    exact inflateWithin_eq_some_iff.mpr ⟨hinflate, hbound⟩
  calc exec (.rxDecode wire) s
    _ = execRxDecode wire s := rfl
    _ = _ := by
      rw [execRxDecode_delivers s wire payload hready hwithin hfault hctr hlong hrxTag hstream, decryptBytes_shift]

/-- Settles O60: the bytes before the tag decrypt as before, so the expected tag is the same, and other last 8 bytes decrypt to another tag. -/
theorem alteredTagAlwaysMismatches : Obligations.AlteredTagAlwaysMismatches := by
  rintro s body good bad _ hready hadmitted hctr hfault hgood hbad hne rfl htag
  have hwithin := (withinSpec_iff_admitted s.limits.maxWire (body ++ bad)).mpr hadmitted
  have hbody : (decryptBytes s.rx.key s.rx.shift body).1.length = body.length := decryptBytes_length ..
  rw [decryptBytes_append, List.drop_left' hbody, List.take_left' hbody] at htag
  have hpacket : rxPacket s (body ++ bad) = _ := decryptBytes_append s.rx.key s.rx.shift body bad
  have hbadTag := (decryptBytes_length s.rx.key (decryptBytes s.rx.key s.rx.shift body).2 bad).trans hbad
  have hmismatch : rxTag s (body ++ bad) ≠ tag (rxBody s (body ++ bad)) s.rx.ctr s.rx.key := by
    rw [rxTag_of_packet hpacket hbadTag, rxBody_of_packet hpacket hbadTag, ← htag]
    exact (decryptBytes_injective s.rx.key _).ne hne
  refine ⟨_, execRxDecode_mismatch s _ hready hwithin hfault hctr (rxPacket_not_short hpacket hbadTag) hmismatch,
    rfl, rfl, newOutputs_of_append s _ _ rfl⟩

end Sys2Proof.Machine
end

section
/-! Two peers (44_rx_decode.md R211): the sending direction of one block and the receiving direction of another, from the same key and IV, agree after every packet, and each packet brings its payload across. -/

namespace Sys2Proof.Machine

/-! The packet of a payload within the bound of the claim is an operand the spec speaks of (00_scope.md R6). -/

theorem compress_length_lt {p : Bytes} (h : p.length < 2 ^ 60) : (compress p).length + 8 < 2 ^ 61 - 40 := by
  unfold compress
  split
  case isTrue hconforms =>
    obtain ⟨-, hlen⟩ := (Bool.and_eq_true _ _).mp hconforms
    exact of_decide_eq_true hlen
  case isFalse =>
    rw [compressStored_length]
    omega

theorem admitted_none {b : Bytes} (h : b.length < 2 ^ 61 - 40) : admitted none b := ⟨h, fun _ hm => nomatch hm⟩

/-- The sender `a` and the receiver `b` are in step: both READY, their records agree, and nothing of the environment stands in the way of a packet. -/
structure InStep (a b : State) : Prop where
  txReady : a.tx.status = .ready
  rxReady : b.rx.status = .ready
  key : b.rx.key = a.tx.key
  shift : b.rx.shift = a.tx.shift
  ctr : b.rx.ctr = a.tx.ctr
  txFaultFree : a.txEnv.faults = []
  rxFaultFree : b.rxEnv.faults = []
  txUnbounded : a.limits.maxPayload = none
  rxUnbounded : b.limits = Limits.reset

/-- Two successful `*_INIT` with one key and one IV put the peers in step at packet 0. -/
theorem inStep_after_init {a b : State} {key iv : Bytes} (ha : a.tx.status = .unconfigured)
    (hb : b.rx.status = .unconfigured) (hkey : key.length = 32) (hiv : iv.length = 16) (hfa : a.txEnv.faults = [])
    (hfb : b.rxEnv.faults = []) (hla : a.limits.maxPayload = none) (hlb : b.limits = Limits.reset) :
    ∃ a0 b0, exec (.txInit key iv) a = .next a0 ∧ exec (.rxInit key iv) b = .next b0 ∧ InStep a0 b0 ∧
      a0.tx.ctr = 0#64 := by
  obtain ⟨k, v, hk, hv, htx⟩ := initDir_of_goodLength .tx key iv a ha hkey hiv
  obtain ⟨k', v', hk', hv', hrx⟩ := initDir_of_goodLength .rx key iv b hb hkey hiv
  obtain rfl : k' = k := Vector.toList_inj.mp (hk'.trans hk.symm)
  obtain rfl : v' = v := Vector.toList_inj.mp (hv'.trans hv.symm)
  refine ⟨_, _, (exec_txInit key iv a).trans (congrArg _ htx), (exec_rxInit key iv b).trans (congrArg _ hrx), ?_, rfl⟩
  exact ⟨rfl, rfl, rfl, rfl, rfl, hfa, hfb, hla, hlb⟩

/-- The wire bytes of a payload (43_tx_encode.md R187). -/
def txWire (s : State) (p : Bytes) : Bytes := (encryptBytes s.tx.key s.tx.shift (txPacket s p)).1

@[simp] theorem txWire_length (s : State) (p : Bytes) : (txWire s p).length = (compress p).length + 8 := by
  rw [txWire, encryptBytes_wire, cfb8Enc_length, txPacket_length]

section
variable {a b : State} (h : InStep a b) {p : Bytes}
include h

theorem InStep.decrypts : decryptBytes b.rx.key b.rx.shift (txWire a p) =
    (txPacket a p, (encryptBytes a.tx.key a.tx.shift (txPacket a p)).2) := by
  rw [h.key, h.shift, txWire, decryptBytes_encryptBytes]

theorem InStep.rxPacket_txWire : rxPacket b (txWire a p) = compress p ++ tag (compress p) a.tx.ctr a.tx.key :=
  congrArg Prod.fst h.decrypts

theorem InStep.payload_withinSpec (hp : p.length < 2 ^ 60) : withinSpec a.limits.maxPayload p = true := by
  rw [withinSpec_iff_admitted, h.txUnbounded]
  exact admitted_none (by omega)

theorem InStep.txWire_withinSpec (hp : p.length < 2 ^ 60) : withinSpec b.limits.maxWire (txWire a p) = true := by
  rw [withinSpec_iff_admitted, h.rxUnbounded]
  exact admitted_none (by rw [txWire_length]; exact compress_length_lt hp)

theorem InStep.inflates : inflateWithin b.limits.maxInflate (compress p) = some p := by
  rw [h.rxUnbounded]
  exact inflateWithin_eq_some_iff.mpr ⟨inflate_compress p, fun _ hm => nomatch hm⟩

/-- One packet: the receiver answers with the sender's payload, and the peers are in step at the next counter. -/
theorem InStep.exchange (hp : p.length < 2 ^ 60) (hctr : a.tx.ctr ≠ Ctr.max) :
    ∃ a' b' wire, exec (.txEncode p) a = .next a' ∧ a'.out.getLast? = some (.response ⟨.ok, wire⟩) ∧
      exec (.rxDecode wire) b = .next b' ∧ b'.out.getLast? = some (.response ⟨.ok, p⟩) ∧
      InStep a' b' ∧ a'.tx.ctr = a.tx.ctr + 1#64 := by
  have htagLength := tag_length (compress p) a.tx.ctr a.tx.key
  have hbody := rxBody_of_packet h.rxPacket_txWire htagLength
  have htag : rxTag b (txWire a p) = tag (rxBody b (txWire a p)) b.rx.ctr b.rx.key := by
    rw [rxTag_of_packet h.rxPacket_txWire htagLength, hbody, h.ctr, h.key]
  have hencode := execTxEncode_delivers a p h.txReady (h.payload_withinSpec hp) hctr (by rw [h.txFaultFree]; rfl)
  have hdecode := execRxDecode_delivers b (txWire a p) p h.rxReady (h.txWire_withinSpec hp)
    (by rw [h.rxFaultFree]; rfl) (by rw [h.ctr]; exact hctr) (rxPacket_not_short h.rxPacket_txWire htagLength) htag
    (by rw [hbody, h.inflates])
  refine ⟨_, _, txWire a p, hencode, by rw [List.getLast?_append]; rfl, hdecode, by rw [List.getLast?_append]; rfl,
    ?inStep, rfl⟩
  case inStep =>
    exact {
      txReady := h.txReady
      rxReady := h.rxReady
      key := h.key
      shift := (congrArg Prod.snd h.decrypts :)
      ctr := congrArg (· + 1#64) h.ctr
      txFaultFree := congrArg List.tail h.txFaultFree
      rxFaultFree := congrArg List.tail h.rxFaultFree
      txUnbounded := h.txUnbounded
      rxUnbounded := h.rxUnbounded }

end

theorem sendAll_nil (f : Bytes → Instr) (s : State) : sendAll f s [] = some ([], s) := rfl

theorem sendAll_cons {f : Bytes → Instr} {s t u : State} {p w : Bytes} {ps ws : List Bytes} (h : exec (f p) s = .next t)
    (hout : t.out.getLast? = some (.response ⟨.ok, w⟩)) (hrest : sendAll f t ps = some (ws, u)) :
    sendAll f s (p :: ps) = some (w :: ws, u) := by
  simp [sendAll, h, hout, hrest]

/-- Any number of packets, as long as the counter has room for them. -/
theorem InStep.exchangeAll {a b : State} (h : InStep a b) (payloads : List Bytes) (hp : ∀ p ∈ payloads, p.length < 2 ^ 60)
    (hroom : a.tx.ctr.toNat + payloads.length < 2 ^ 64) :
    ∃ wires a' b', sendAll .txEncode a payloads = some (wires, a') ∧
      sendAll .rxDecode b wires = some (payloads, b') ∧ InStep a' b' ∧
      a'.tx.ctr.toNat = a.tx.ctr.toNat + payloads.length := by
  induction payloads generalizing a b with
  | nil => exact ⟨[], a, b, sendAll_nil _ a, sendAll_nil _ b, h, rfl⟩
  | cons p ps ih =>
    rw [List.length_cons] at hroom
    have hctr : a.tx.ctr ≠ Ctr.max := by
      intro hmax
      have : a.tx.ctr.toNat = 2 ^ 64 - 1 := by rw [hmax]; rfl
      omega
    obtain ⟨a1, b1, wire, hencode, haout, hdecode, hbout, h1, hctr1⟩ := h.exchange (hp p List.mem_cons_self) hctr
    have hnext : a1.tx.ctr.toNat = a.tx.ctr.toNat + 1 := by rw [hctr1, ctr_succ_toNat _ hctr]
    obtain ⟨wires, a', b', hsent, hreceived, h', hcount⟩ :=
      ih h1 (fun q hq => hp q (List.mem_cons_of_mem p hq)) (by omega)
    refine ⟨wire :: wires, a', b', sendAll_cons hencode haout hsent, sendAll_cons hdecode hbout hreceived, h', ?_⟩
    rw [hcount, hnext, List.length_cons]
    omega

/-- Settles O59: the peers are in step after the two `*_INIT` and after every packet. -/
theorem roundTrip : Obligations.RoundTrip := by
  intro a b key iv payloads ha hb hkey hiv hfa hfb hla hlb hp hlen
  obtain ⟨a0, b0, ha0, hb0, h0, hzero⟩ := inStep_after_init ha hb hkey hiv hfa hfb hla hlb
  have hstart : a0.tx.ctr.toNat = 0 := by rw [hzero]; rfl
  obtain ⟨wires, a1, b1, hsent, hreceived, h1, hcount⟩ := h0.exchangeAll payloads hp (by omega)
  rw [hstart, Nat.zero_add] at hcount
  exact ⟨a0, b0, wires, a1, b1, ha0, hb0, hsent, hreceived, hcount, by rw [h1.ctr, hcount], h1.shift.symm, h1.txReady,
    h1.rxReady⟩

end Sys2Proof.Machine
end

section
/-! The counter stages (45_counter_monitor_and_control.md R221 to R223) and the life of a counter (R220, R224, 10_state.md R25 (d)): a command that neither configures nor closes a direction moves its counter by at most one, and only for a packet. -/

namespace Sys2Proof.Machine

theorem exec_txCtrInc (s : State) : exec .txCtrInc s = execTxCtrInc s := rfl

theorem exec_rxCtrInc (s : State) : exec .rxCtrInc s = execRxCtrInc s := rfl

/-- At `2^64 - 1` it makes no difference whether the packet could be split. -/
theorem exec_rxCtrInc_top (s : State) (f : RxFlight) (h : s.rxFlight = some f) (hdue : rxDue f = .rxCtrInc)
    (hctr : s.rx.ctr = Ctr.max) : exec .rxCtrInc s = .next (raiseFatal .rx .counterOverflow s) := by
  rw [exec_rxCtrInc]
  cases f with
  | ctrInc c r x => rw [execRxCtrInc_due s c r x h, if_pos hctr]
  | ctrIncShort => rw [execRxCtrInc_dueShort s h, if_pos hctr]
  | _ => cases hdue

/-- Settles O33: each counter stage on its own latch, below `2^64 - 1` and at it. -/
theorem counterStages : Obligations.CounterStages := by
  refine ⟨fun s pkt h (hctr : s.tx.ctr ≠ Ctr.max) => ?txBelow, fun s pkt h (hctr : s.tx.ctr = Ctr.max) => ?txTop,
    fun s c r x h (hctr : s.rx.ctr ≠ Ctr.max) => ?rxBelow, fun s h (hctr : s.rx.ctr ≠ Ctr.max) => ?rxShort,
    fun s f h hdue hctr => ?rxTop⟩
  case txBelow =>
    exact ⟨_, ctr_succ_toNat s.tx.ctr hctr, by rw [exec_txCtrInc, execTxCtrInc_due s pkt h, if_neg hctr]⟩
  case txTop =>
    rw [exec_txCtrInc, execTxCtrInc_due s pkt h, if_pos hctr, raiseFatal_tx]
    rfl
  case rxBelow =>
    exact ⟨_, ctr_succ_toNat s.rx.ctr hctr, by rw [exec_rxCtrInc, execRxCtrInc_due s c r x h, if_neg hctr]⟩
  case rxShort =>
    refine ⟨_, ctr_succ_toNat s.rx.ctr hctr, ?_⟩
    rw [exec_rxCtrInc, execRxCtrInc_dueShort s h, if_neg hctr, raiseFatal_rx]
    rfl
  case rxTop =>
    rw [exec_rxCtrInc_top s f h hdue hctr, raiseFatal_rx]
    rfl

/-- The commands that take a packet through a direction's pipeline: TX_ENCODE and RX_DECODE. -/
def takesPacket (d : Side) (i : Instr) : Prop :=
  (d = .tx ∧ ∃ payload, i = .txEncode payload) ∨ (d = .rx ∧ ∃ wire, i = .rxDecode wire)

theorem not_takesPacket_of_configures {i : Instr} {d d' : Side} (h : configures d' i) : ¬ takesPacket d i := by
  rcases h with ⟨_, key, iv, rfl⟩ | ⟨_, key, iv, rfl⟩ <;> simp [takesPacket]

theorem not_takesPacket_of_isReadOut {i : Instr} {d : Side} (h : isReadOut i) : ¬ takesPacket d i := by
  rcases h with rfl | rfl | rfl | rfl | rfl <;> simp [takesPacket]

/-- What a command that neither configures nor closes a direction can do to its counter. -/
inductive CtrMove (i : Instr) (d : Side) (s t : State) : Prop
  /-- The record stays: the command takes no packet through this direction, or finds it not READY. -/
  | kept (hdir : t.dir d = s.dir d) (hidle : takesPacket d i → (s.dir d).status ≠ .ready)
  /-- A packet has been delivered and counted. -/
  | counted (hi : takesPacket d i) (hctr : (t.dir d).ctr.toNat = (s.dir d).ctr.toNat + 1)
  /-- The packet was fatal, before the counter stage or after it. -/
  | died (hstatus : (t.dir d).status = .dead)
      (hctr : (t.dir d).ctr.toNat = (s.dir d).ctr.toNat ∨ (t.dir d).ctr.toNat = (s.dir d).ctr.toNat + 1)

theorem CtrMove.of_not_takesPacket {i : Instr} {d : Side} {s t : State} (hdir : t.dir d = s.dir d)
    (hi : ¬ takesPacket d i) : CtrMove i d s t :=
  .kept hdir fun htakes => absurd htakes hi

/-- A counter that stays, or goes up by one below `2^64 - 1`, does so as a natural number. -/
theorem ctr_toNat_of_stays_or_succ {c n : Ctr} (h : n = c ∨ c ≠ Ctr.max ∧ n = c + 1#64) :
    n.toNat = c.toNat ∨ n.toNat = c.toNat + 1 := by
  rcases h with rfl | ⟨hmax, rfl⟩
  · exact .inl rfl
  · exact .inr (ctr_succ_toNat c hmax)

theorem exec_command_ctrMove (i : Instr) (d : Side) (s t : State) (hi : i.isCommand = true) (h : exec i s = .next t)
    (hopen : ¬ closes d i) (hconf : ¬ configures d i) : CtrMove i d s t := by
  rcases exec_command_cases i s t hi h with ⟨rfl, rfl⟩ | ⟨rfl, rfl⟩ | ⟨rfl, rfl⟩ | ⟨b, hread, rfl⟩ | ⟨c, hread, rfl⟩ |
    ⟨c, hwhy, rfl⟩ | ⟨k, v, hinit, _, rfl⟩ | ⟨k, v, hinit, _, rfl⟩ |
    ⟨p, rfl, _, ⟨c, n, v, e, _, hn, rfl⟩ | ⟨v, e, w, hmax, rfl⟩⟩ |
    ⟨p, rfl, _, ⟨c, n, v, e, _, hn, rfl⟩ | ⟨v, e, w, hmax, rfl⟩⟩
  -- RESET and the closes
  · exact absurd (.inl rfl) hopen
  · cases d
    · exact absurd (.inr (.inl ⟨rfl, rfl⟩)) hopen
    · exact .of_not_takesPacket rfl (by simp [takesPacket])
  · cases d
    · exact .of_not_takesPacket rfl (by simp [takesPacket])
    · exact absurd (.inr (.inr ⟨rfl, rfl⟩)) hopen
  -- the read-outs
  · exact .of_not_takesPacket (by cases d <;> rfl) (not_takesPacket_of_isReadOut (by unfold isReadOut; tauto))
  · exact .of_not_takesPacket (by cases d <;> rfl) (not_takesPacket_of_isReadOut (by unfold isReadOut; tauto))
  -- a rejection
  · have hdir : ({ s with out := s.out ++ [.response ⟨c, []⟩] } : State).dir d = s.dir d := by cases d <;> rfl
    rcases hwhy with ⟨_, ⟨hinit, _⟩ | ⟨hinit, _⟩ | ⟨⟨p, rfl⟩, hidle⟩ | ⟨⟨p, rfl⟩, hidle⟩⟩ | ⟨_, hinit | hinit⟩
    case inl.inr.inr.inl =>
      cases d
      · exact .kept hdir fun _ => hidle
      · exact .of_not_takesPacket hdir (by simp [takesPacket])
    case inl.inr.inr.inr =>
      cases d
      · exact .of_not_takesPacket hdir (by simp [takesPacket])
      · exact .kept hdir fun _ => hidle
    all_goals exact .of_not_takesPacket hdir (not_takesPacket_of_configures hinit)
  -- a successful `*_INIT`
  · cases d
    · exact absurd hinit hconf
    · exact .of_not_takesPacket rfl (not_takesPacket_of_configures hinit)
  · cases d
    · exact .of_not_takesPacket rfl (not_takesPacket_of_configures hinit)
    · exact absurd hinit hconf
  -- TX_ENCODE on a READY direction
  · cases d
    · exact .died rfl (ctr_toNat_of_stays_or_succ hn)
    · exact .of_not_takesPacket rfl (by simp [takesPacket])
  · cases d
    · exact .counted (.inl ⟨rfl, p, rfl⟩) (ctr_succ_toNat s.tx.ctr hmax)
    · exact .of_not_takesPacket rfl (by simp [takesPacket])
  -- RX_DECODE on a READY direction
  · cases d
    · exact .of_not_takesPacket rfl (by simp [takesPacket])
    · exact .died rfl (ctr_toNat_of_stays_or_succ hn)
  · cases d
    · exact .of_not_takesPacket rfl (by simp [takesPacket])
    · exact .counted (.inr ⟨rfl, p, rfl⟩) (ctr_succ_toNat s.rx.ctr hmax)

theorem CtrMove.stays_or_succ {i : Instr} {d : Side} {s t : State} (h : CtrMove i d s t) :
    (t.dir d).ctr.toNat = (s.dir d).ctr.toNat ∨ (t.dir d).ctr.toNat = (s.dir d).ctr.toNat + 1 := by
  cases h with
  | kept hdir _ => exact .inl (by rw [hdir])
  | counted _ hctr => exact .inr hctr
  | died _ hctr => exact hctr

theorem CtrMove.succ_of_takesPacket {i : Instr} {d : Side} {s t : State} (h : CtrMove i d s t)
    (hs : (s.dir d).status = .ready) (ht : (t.dir d).status = .ready) (hi : takesPacket d i) :
    (t.dir d).ctr.toNat = (s.dir d).ctr.toNat + 1 := by
  cases h with
  | kept _ hidle => exact absurd hs (hidle hi)
  | counted _ hctr => exact hctr
  | died hstatus _ => rw [ht] at hstatus; cases hstatus

theorem CtrMove.stays_of_not_takesPacket {i : Instr} {d : Side} {s t : State} (h : CtrMove i d s t)
    (ht : (t.dir d).status = .ready) (hi : ¬ takesPacket d i) : (t.dir d).ctr.toNat = (s.dir d).ctr.toNat := by
  cases h with
  | kept hdir _ => rw [hdir]
  | counted htakes _ => exact absurd htakes hi
  | died hstatus _ => rw [ht] at hstatus; cases hstatus

/-- Settles O41: a direction that is READY after the command has counted exactly the packet the command took. -/
theorem counterMovesByAtMostOne : Obligations.CounterMovesByAtMostOne := by
  intro i s t d hi h hopen hconf
  have hmove := exec_command_ctrMove i d s t hi h hopen hconf
  refine ⟨hmove.stays_or_succ, fun hs ht => ?_⟩
  split
  next p => exact hmove.succ_of_takesPacket hs ht (.inl ⟨rfl, p, rfl⟩)
  next p => exact hmove.succ_of_takesPacket hs ht (.inr ⟨rfl, p, rfl⟩)
  next hnotTx hnotRx =>
    refine hmove.stays_of_not_takesPacket ht ?_
    rintro (⟨rfl, p, rfl⟩ | ⟨rfl, p, rfl⟩)
    · exact hnotTx p rfl rfl
    · exact hnotRx p rfl rfl

end Sys2Proof.Machine
end

section
/-! The read-out of the counters and of the status bytes (45_counter_monitor_and_control.md R227 to R231), and RESET (R232). -/

namespace Sys2Proof.Machine

/-! The bytes of a counter. -/

theorem leBytes_zero_value (n : Nat) : leBytes n 0 = List.replicate n 0#8 := by
  induction n with
  | zero => rfl
  | succ n ih => rw [leBytes, Nat.zero_div, ih]; rfl

/-- Byte `k` of a number written least significant byte first is its `k`-th digit to base 256. -/
theorem leBytes_getD_toNat (n v k : Nat) (hk : k < n) : ((leBytes n v).getD k 0#8).toNat = v / 256 ^ k % 256 := by
  induction n generalizing v k with
  | zero => exact absurd hk (Nat.not_lt_zero k)
  | succ n ih =>
    cases k with
    | zero => simp [leBytes]
    | succ k =>
      calc ((leBytes (n + 1) v).getD (k + 1) 0#8).toNat
        _ = ((leBytes n (v / 256)).getD k 0#8).toNat := by rw [leBytes, List.getD_cons_succ]
        _ = v / 256 / 256 ^ k % 256 := ih (v / 256) k (Nat.lt_of_succ_lt_succ hk)
        _ = v / 256 ^ (k + 1) % 256 := by rw [Nat.div_div_eq_div_mul, Nat.pow_succ']

theorem fromLE_ctrBytes (c : Ctr) : fromLE (ctrBytes c) = c.toNat := fromLE_leBytes 8 c.toNat c.isLt

theorem Dir.good.eq_reset {d : Side} {x : Dir} (h : x.good d) (hstatus : x.status = .unconfigured) : x = Dir.reset := by
  simpa [Dir.good, hstatus] using h

theorem State.Inv.dir_good {s : State} (h : s.Inv) (d : Side) : (s.dir d).good d := (((inv_iff s).mp h).1 d).1

theorem ctrBytes_of_unconfigured {s : State} (d : Side) (h : s.Inv) (hstatus : (s.dir d).status = .unconfigured) :
    ctrBytes (s.dir d).ctr = List.replicate 8 0#8 := by
  rw [(h.dir_good d).eq_reset hstatus]
  exact leBytes_zero_value 8

theorem exec_rdSendCtr (s : State) :
    exec .rdSendCtr s = .next { s with out := s.out ++ [.response ⟨.ok, ctrBytes s.tx.ctr⟩] } := rfl

theorem exec_rdRecvCtr (s : State) :
    exec .rdRecvCtr s = .next { s with out := s.out ++ [.response ⟨.ok, ctrBytes s.rx.ctr⟩] } := rfl

/-- Settles O39: the data are the counter's eight bytes, and an UNCONFIGURED direction that meets the invariant is `Dir.reset`. -/
theorem readCountersResult : Obligations.ReadCountersResult :=
  fun s =>
    ⟨⟨ctrBytes s.tx.ctr, exec_rdSendCtr s, leBytes_length 8 _, fromLE_ctrBytes _, ctrBytes_of_unconfigured .tx,
        leBytes_getD_toNat 8 _⟩,
      ⟨ctrBytes s.rx.ctr, exec_rdRecvCtr s, leBytes_length 8 _, fromLE_ctrBytes _, ctrBytes_of_unconfigured .rx,
        leBytes_getD_toNat 8 _⟩⟩

/-! The status bytes. -/

/-- Two fields side by side are a sum. -/
theorem append_toNat {m n : Nat} (x : BitVec m) (y : BitVec n) : (x ++ y).toNat = 2 ^ n * x.toNat + y.toNat := by
  rw [BitVec.toNat_append, ← Nat.shiftLeft_add_eq_or_of_lt y.isLt, Nat.shiftLeft_eq, Nat.mul_comm]

theorem statusByte_toNat (x : Dir) : (statusByte x).toNat = x.status.bits.toNat + 16 * x.err.toNat := by
  simp only [statusByte, append_toNat, BitVec.toNat_ofNat]
  omega

/-- The status bytes of a good direction: UNCONFIGURED, READY, and DEAD by each of its fatal codes. -/
def statusBytes (d : Side) : List Byte := 0x00#8 :: 0x01#8 :: (deathCodes d).map fun code => code ++ 2#4

theorem Dir.good.statusByte_mem {d : Side} {x : Dir} (h : x.good d) : statusByte x ∈ statusBytes d := by
  cases hstatus : x.status with
  | unconfigured =>
    rw [h.eq_reset hstatus]
    exact List.mem_cons_self
  | ready =>
    have hbyte : statusByte x = 0x01#8 := by rw [statusByte, hstatus, h.err_of_ready hstatus]; rfl
    rw [hbyte]
    exact List.mem_cons_of_mem _ List.mem_cons_self
  | dead =>
    have herr : x.err ∈ deathCodes d := by simpa [Dir.good, hstatus] using h
    have hbyte : statusByte x = x.err ++ 2#4 := by rw [statusByte, hstatus]; rfl
    rw [hbyte]
    exact List.mem_cons_of_mem _ (List.mem_cons_of_mem _ (List.mem_map_of_mem herr))

theorem statusBytes_tx : statusBytes .tx = [0x00#8, 0x01#8, 0x42#8, 0x62#8] := rfl

theorem statusBytes_rx : statusBytes .rx = [0x00#8, 0x01#8, 0x22#8, 0x32#8, 0x42#8, 0x52#8, 0x62#8] := rfl

theorem ofBool_beq_toNat {α : Type} [DecidableEq α] (a b : α) :
    (BitVec.ofBool (a == b)).toNat = if a = b then 1 else 0 := by
  by_cases h : a = b <;> simp [h]

theorem monStatusByte_toNat (s : State) :
    (monStatusByte s).toNat =
      (if s.tx.status = .ready then 1 else 0) + (if s.rx.status = .ready then 2 else 0) +
        (if s.rx.err = 2#4 then 4 else 0) + (if s.tx.err = 6#4 then 8 else 0) + (if s.rx.err = 6#4 then 16 else 0) := by
  simp only [monStatusByte, append_toNat, BitVec.toNat_ofNat, ofBool_beq_toNat]
  split_ifs <;> rfl

theorem exec_rdTxStatus (s : State) :
    exec .rdTxStatus s = .next { s with out := s.out ++ [.response ⟨.ok, [statusByte s.tx]⟩] } := rfl

theorem exec_rdRxStatus (s : State) :
    exec .rdRxStatus s = .next { s with out := s.out ++ [.response ⟨.ok, [statusByte s.rx]⟩] } := rfl

theorem exec_rdMonStatus (s : State) :
    exec .rdMonStatus s = .next { s with out := s.out ++ [.response ⟨.ok, [monStatusByte s]⟩] } := rfl

/-- Settles O40: each byte is the sum of its fields, and a good direction's is one of its list. -/
theorem readStatusResult : Obligations.ReadStatusResult :=
  fun s =>
    ⟨⟨statusByte s.tx, exec_rdTxStatus s, statusByte_toNat s.tx, fun h => statusBytes_tx ▸ (h.dir_good .tx).statusByte_mem⟩,
      ⟨statusByte s.rx, exec_rdRxStatus s, statusByte_toNat s.rx, fun h => statusBytes_rx ▸ (h.dir_good .rx).statusByte_mem⟩,
      ⟨monStatusByte s, exec_rdMonStatus s, monStatusByte_toNat s⟩⟩

/-! RESET. -/

theorem exec_reset (s : State) : exec .reset s = .next ((closeDir .rx (closeDir .tx s)).respond .ok []) := rfl

/-- Settles O19: RESET closes both directions; the two closing commands do the same with a response each. -/
theorem resetCommandResult : Obligations.ResetCommandResult := by
  refine fun s => ⟨?_, _, _, exec_txClose s, exec_rxClose _, ?_⟩
  · rw [exec_reset, closeDir_tx, closeDir_rx]; rfl
  · rw [exec_reset]; rfl

end Sys2Proof.Machine
end

section
/-! The fatal errors that TX_ENCODE and RX_DECODE can end in (60_exceptions.md R270 to R275), each with the whole next state in the spec's own functions. -/

namespace Sys2Proof.Machine

theorem exec_txEncode (payload : Bytes) (s : State) : exec (.txEncode payload) s = execTxEncode payload s := rfl

theorem exec_rxDecode (wire : Bytes) (s : State) : exec (.rxDecode wire) s = execRxDecode wire s := rfl

theorem withinSpec_of_admitted {bound : Option Nat} {b : Bytes} (h : admitted bound b) : withinSpec bound b = true :=
  (withinSpec_iff_admitted bound b).mpr h

/-! What RX_DECODE finds in a packet of 8 bytes or more, and how it leaves a direction that dies. -/

theorem rxBody_eq (s : State) (wire : Bytes) :
    rxBody s wire = (cfb8Dec aes256 s.rx.key s.rx.shift wire).1.take (wire.length - 8) := by
  rw [rxBody, rxPacket_length, rxPacket, decryptBytes_packet]

theorem rxTag_eq (s : State) (wire : Bytes) :
    rxTag s wire = (cfb8Dec aes256 s.rx.key s.rx.shift wire).1.drop (wire.length - 8) := by
  rw [rxTag, rxPacket_length, rxPacket, decryptBytes_packet]

/-- 44_rx_decode.md R210: the shift register of a direction that dies after its cipher stage is the last 16 bytes shifted in. -/
theorem rxDied_eq (s : State) (wire : Bytes) (ctr : Ctr) (c : Code) :
    rxDied s wire ctr c =
      { s with rx := { s.rx with status := .dead, err := c.nibble, ctr := ctr,
                                 shift := lastSixteen (s.rx.shift.toList ++ wire) },
               rxFlight := none, rxEnv := { s.rxEnv with faults := s.rxEnv.faults.tail },
               out := s.out ++ [.event (.onError .rx c), .response ⟨c, []⟩] } := by
  rw [rxDied, decryptBytes_shift]

/-- 10_state.md R17: RX_STATUS of a DEAD direction is the code in the high nibble and 2 in the low one. -/
theorem register_rxStatus_rxDied (s : State) (wire : Bytes) (ctr : Ctr) (c : Code) :
    register (rxDied s wire ctr c) 1 = some [c.nibble ++ 2#4] := by
  have hstatus : (rxDied s wire ctr c).rx.status = .dead := rfl
  have herr : (rxDied s wire ctr c).rx.err = c.nibble := rfl
  rw [register, statusByte, hstatus, herr]
  rfl

/-- 10_state.md R18: bit 2 of MON_STATUS is 1 exactly where RX has died of ChecksumMismatch. -/
theorem monStatusByte_bit_two (s : State) : (monStatusByte s).getLsbD 2 = (s.rx.err == 2#4) := by
  simp only [monStatusByte, BitVec.getLsbD_append]
  simp

/-! The entries. -/

/-- Settles O25: TX dies at its counter stage, before `S` moves; RX at its own, after the cipher stage. -/
theorem counterOverflowEntry : Obligations.CounterOverflowEntry := by
  refine ⟨fun s payload hready hadmitted hctr => ?tx, fun s wire hready hadmitted hctr hfault => ?rx⟩
  case tx =>
    rw [exec_txEncode, execTxEncode_overflow s payload hready (withinSpec_of_admitted hadmitted) hctr]
  case rx =>
    rw [exec_rxDecode, execRxDecode_overflow s wire hready (withinSpec_of_admitted hadmitted) hfault hctr, rxDied_eq]
    rfl

/-- Settles O26: TX draws the fault after its counter stage, RX before its own; the new `S` is a free value. -/
theorem cipherErrorEntry : Obligations.CipherErrorEntry := by
  refine ⟨fun s payload hready hadmitted hctr hfault => ?tx, fun s wire hready hadmitted hfault => ?rx⟩
  case tx => exact ⟨_, _, execTxEncode_cipherError s payload hready (withinSpec_of_admitted hadmitted) hctr hfault⟩
  case rx => exact ⟨_, _, execRxDecode_cipherError s wire hready (withinSpec_of_admitted hadmitted) hfault⟩

/-- Settles O27: the packet is as long as the wire bytes, so it is too short to split. -/
theorem shortPacketEntry : Obligations.ShortPacketEntry := by
  intro s wire hready hadmitted hshort hctr hfault
  have hpacket : (rxPacket s wire).length < 8 := by rwa [rxPacket_length]
  rw [exec_rxDecode, execRxDecode_short s wire hready (withinSpec_of_admitted hadmitted) hfault hctr hpacket, rxDied_eq]
  rfl

/-- Settles O28: the comparison comes before the decompression, so what the rest inflates to plays no part. -/
theorem checksumMismatchEntry : Obligations.ChecksumMismatchEntry := by
  rintro s wire _ hready hadmitted hctr hfault hlen rfl htag
  have hlong : ¬ (rxPacket s wire).length < 8 := by rwa [rxPacket_length, Nat.not_lt]
  have hmismatch : rxTag s wire ≠ tag (rxBody s wire) s.rx.ctr s.rx.key := by
    rwa [rxTag_eq, rxBody_eq, tag_eq_sha256]
  have hexec := execRxDecode_mismatch s wire hready (withinSpec_of_admitted hadmitted) hfault hctr hlong hmismatch
  refine ⟨_, hexec, rxDied_eq s wire _ _, register_rxStatus_rxDied s wire _ _, ?_⟩
  rw [monStatusByte_bit_two]
  rfl

/-- Settles O29: with the tag right the command goes on to decompress, and no stream within the bound is there. -/
theorem compressionErrorEntry : Obligations.CompressionErrorEntry := by
  rintro s wire _ _ hready hadmitted hctr hfault hlen rfl rfl htag hstream
  have hlong : ¬ (rxPacket s wire).length < 8 := by rwa [rxPacket_length, Nat.not_lt]
  have hmatch : rxTag s wire = tag (rxBody s wire) s.rx.ctr s.rx.key := by
    rwa [rxTag_eq, rxBody_eq, tag_eq_sha256]
  have hnone : inflateWithin s.limits.maxInflate (rxBody s wire) = none := by
    rw [rxBody_eq]
    exact inflateWithin_eq_none hstream
  have hexec := execRxDecode_badStream s wire hready (withinSpec_of_admitted hadmitted) hfault hctr hlong hmatch hnone
  exact ⟨_, hexec, rxDied_eq s wire _ _, register_rxStatus_rxDied s wire _ _⟩

end Sys2Proof.Machine
end

section
/-! What a command adds to the outputs and why (60_exceptions.md R252 to R257): a response alone, a delivery, or the death of a direction. The events and the code IllegalState are read off these three. -/

namespace Sys2Proof.Machine

/-- The event of a packet that a direction has taken through (60_exceptions.md R253, R254). -/
def delivery : Side → Bytes → Event
  | .tx, wire => .onEncoded wire
  | .rx, payload => .onDecoded payload

/-- 10_state.md R15: the direction has gone from READY to DEAD. -/
def dies (d : Side) (s t : State) : Prop := (s.dir d).status = .ready ∧ (t.dir d).status = .dead

/-- The table of 60_exceptions.md R277: the commands that the status of their direction does not allow. -/
def notAllowed (i : Instr) (s : State) : Prop :=
  (configures .tx i ∧ s.tx.status ≠ .unconfigured) ∨ (configures .rx i ∧ s.rx.status ≠ .unconfigured) ∨
    ((∃ payload, i = .txEncode payload) ∧ s.tx.status ≠ .ready) ∨ ((∃ wire, i = .rxDecode wire) ∧ s.rx.status ≠ .ready)

/-- The three ways a command ends. -/
inductive Ending (i : Instr) (s t : State) : Prop
  /-- A response alone. -/
  | responded (r : Response) (hout : newOutputs s t = [.response r]) (hlive : ∀ d, ¬ dies d s t)
      (hok : r.status = .ok → ∀ d, ¬ takesPacket d i) (hillegal : r.status = .illegalState → notAllowed i s)
  /-- A packet has gone through a direction. -/
  | delivered (d : Side) (data : Bytes) (hi : takesPacket d i)
      (hout : newOutputs s t = [.event (delivery d data), .response ⟨.ok, data⟩]) (hlive : ∀ d', ¬ dies d' s t)
  /-- A fatal error (60_exceptions.md R256). -/
  | died (d : Side) (c : Code) (hdies : dies d s t) (hother : ∀ d', dies d' s t → d' = d)
      (hout : newOutputs s t = [.event (.onError d c), .response ⟨c, []⟩])
      (hfatal : c.fatal = true) (herr : (t.dir d).err = c.nibble)

theorem takesPacket_tx_iff (i : Instr) : takesPacket .tx i ↔ ∃ payload, i = .txEncode payload := by simp [takesPacket]

theorem takesPacket_rx_iff (i : Instr) : takesPacket .rx i ↔ ∃ wire, i = .rxDecode wire := by simp [takesPacket]

theorem not_takesPacket_both {i : Instr} (htx : takesPacket .tx i) : ¬ takesPacket .rx i := by
  obtain ⟨payload, rfl⟩ := (takesPacket_tx_iff i).mp htx
  simp [takesPacket_rx_iff]

theorem takesPacket_unique {i : Instr} {d d' : Side} (h : takesPacket d i) (h' : takesPacket d' i) : d = d' := by
  cases d <;> cases d'
  case tx.tx | rx.rx => rfl
  case tx.rx => exact absurd h' (not_takesPacket_both h)
  case rx.tx => exact absurd h (not_takesPacket_both h')

theorem not_takesPacket_of_closes {i : Instr} {d d' : Side} (h : closes d' i) : ¬ takesPacket d i := by
  rcases h with rfl | ⟨_, rfl⟩ | ⟨_, rfl⟩ <;> simp [takesPacket]

theorem delivery_injective {d d' : Side} {b b' : Bytes} (h : delivery d b = delivery d' b') : d = d' ∧ b = b' := by
  cases d <;> cases d' <;> cases h <;> exact ⟨rfl, rfl⟩

theorem delivery_ne_onError (d d' : Side) (b : Bytes) (c : Code) : delivery d b ≠ .onError d' c := by
  cases d <;> simp [delivery]

theorem not_dies {d : Side} {s t : State} (h : (t.dir d).status = (s.dir d).status ∨ (t.dir d).status ≠ .dead) :
    ¬ dies d s t := by
  rintro ⟨hready, hdead⟩
  rcases h with hkept | halive
  · rw [hkept, hready] at hdead
    cases hdead
  · exact halive hdead

theorem no_side_dies {s t : State} (htx : t.tx.status = s.tx.status ∨ t.tx.status ≠ .dead)
    (hrx : t.rx.status = s.rx.status ∨ t.rx.status ≠ .dead) : ∀ d, ¬ dies d s t
  | .tx => not_dies htx
  | .rx => not_dies hrx

theorem Event.good.fatal {d : Side} {c : Code} (h : (Event.onError d c).good) : c.fatal = true := h.1

/-- A command that takes no packet and is not rejected answers OK, alone. -/
theorem Ending.of_ok {i : Instr} {s t : State} {data : Bytes} (hout : t.out = s.out ++ [.response ⟨.ok, data⟩])
    (hi : ∀ d, ¬ takesPacket d i) (hlive : ∀ d, ¬ dies d s t) : Ending i s t :=
  .responded ⟨.ok, data⟩ (newOutputs_of_append s t _ hout) hlive (fun _ => hi) (fun h => nomatch h)

theorem Ending.of_rejected {i : Instr} {s t : State} {c : Code} (hout : t.out = s.out ++ [.response ⟨c, []⟩])
    (hlive : ∀ d, ¬ dies d s t) (hok : c ≠ .ok) (hillegal : c = .illegalState → notAllowed i s) : Ending i s t :=
  .responded ⟨c, []⟩ (newOutputs_of_append s t _ hout) hlive (fun h => absurd h hok) hillegal

/-- A fatal error of `d` that leaves the other direction's record alone. -/
theorem Ending.of_fatal {i : Instr} {s t : State} {d : Side} {c : Code}
    (hout : t.out = s.out ++ [.event (.onError d c), .response ⟨c, []⟩]) (hgood : (Event.onError d c).good)
    (hready : (s.dir d).status = .ready) (hdead : (t.dir d).status = .dead) (herr : (t.dir d).err = c.nibble)
    (hother : ∀ d', d' ≠ d → t.dir d' = s.dir d') : Ending i s t :=
  .died d c ⟨hready, hdead⟩
    (fun d' hdies => by_contra fun hne => not_dies (.inl (congrArg Dir.status (hother d' hne))) hdies)
    (newOutputs_of_append s t _ hout) hgood.fatal herr

theorem exec_command_ending (i : Instr) (s t : State) (hi : i.isCommand = true) (h : exec i s = .next t) :
    Ending i s t := by
  rcases exec_command_cases i s t hi h with ⟨rfl, rfl⟩ | ⟨rfl, rfl⟩ | ⟨rfl, rfl⟩ | ⟨b, hread, rfl⟩ | ⟨c, hread, rfl⟩ |
    ⟨c, hwhy, rfl⟩ | ⟨k, v, hconf, _, rfl⟩ | ⟨k, v, hconf, _, rfl⟩ |
    ⟨p, rfl, hready, ⟨c, n, v, e, hc, _, rfl⟩ | ⟨v, e, w, _, rfl⟩⟩ |
    ⟨p, rfl, hready, ⟨c, n, v, e, hc, _, rfl⟩ | ⟨v, e, w, _, rfl⟩⟩
  -- RESET and the closes
  · exact .of_ok rfl (fun _ => not_takesPacket_of_closes (d' := .tx) (.inl rfl)) (no_side_dies (.inr nofun) (.inr nofun))
  · exact .of_ok rfl (fun _ => not_takesPacket_of_closes (d' := .tx) (.inr (.inl ⟨rfl, rfl⟩)))
      (no_side_dies (.inr nofun) (.inl rfl))
  · exact .of_ok rfl (fun _ => not_takesPacket_of_closes (d' := .rx) (.inr (.inr ⟨rfl, rfl⟩)))
      (no_side_dies (.inl rfl) (.inr nofun))
  -- the read-outs
  iterate 2
    exact .of_ok rfl (fun _ => not_takesPacket_of_isReadOut (by unfold isReadOut; tauto))
      (no_side_dies (.inl rfl) (.inl rfl))
  -- a rejection
  · refine .of_rejected rfl (no_side_dies (.inl rfl) (.inl rfl)) ?_ ?_
    · rcases hwhy with ⟨rfl, _⟩ | ⟨rfl, _⟩ <;> decide
    · rcases hwhy with ⟨_, hwhy⟩ | ⟨rfl, _⟩
      · exact fun _ => hwhy
      · exact nofun
  -- a successful `*_INIT`
  · exact .of_ok rfl (fun _ => not_takesPacket_of_configures hconf) (no_side_dies (.inr nofun) (.inl rfl))
  · exact .of_ok rfl (fun _ => not_takesPacket_of_configures hconf) (no_side_dies (.inl rfl) (.inr nofun))
  -- TX_ENCODE on a READY direction
  · exact .of_fatal (d := .tx) rfl (onError_good_tx hc) hready rfl rfl fun | .tx => absurd rfl | .rx => fun _ => rfl
  · exact .delivered .tx w (.inl ⟨rfl, p, rfl⟩) (newOutputs_of_append s _ _ rfl) (no_side_dies (.inl rfl) (.inl rfl))
  -- RX_DECODE on a READY direction
  · exact .of_fatal (d := .rx) rfl (onError_good_rx hc) hready rfl rfl fun | .tx => fun _ => rfl | .rx => absurd rfl
  · exact .delivered .rx w (.inr ⟨rfl, p, rfl⟩) (newOutputs_of_append s _ _ rfl) (no_side_dies (.inl rfl) (.inl rfl))

/-- 60_exceptions.md R253, R254, for either direction: a delivery and an OK with the same bytes come together. -/
theorem Ending.delivery_mem_iff {i : Instr} {s t : State} (h : Ending i s t) (d : Side) (data : Bytes) :
    .event (delivery d data) ∈ newOutputs s t ↔ takesPacket d i ∧ .response ⟨.ok, data⟩ ∈ newOutputs s t := by
  cases h with
  | responded r hout _ hok _ =>
    rw [hout]
    simp only [List.mem_singleton, reduceCtorEq, false_iff, Output.response.injEq, not_and]
    rintro hi rfl
    exact hok rfl d hi
  | delivered d' data' hi hout _ =>
    rw [hout]
    simp only [List.mem_cons, List.not_mem_nil, reduceCtorEq, or_false, false_or, Output.event.injEq,
      Output.response.injEq, Response.mk.injEq, true_and]
    constructor
    · intro hevent
      obtain ⟨rfl, rfl⟩ := delivery_injective hevent
      exact ⟨hi, rfl⟩
    · rintro ⟨hi', rfl⟩
      rw [takesPacket_unique hi' hi]
  | died d' c _ _ hout hfatal _ =>
    have hcode : Code.ok ≠ c := by rintro rfl; cases hfatal
    simp [hout, delivery_ne_onError, hcode]

/-- Settles O16: TX's delivery is on_encoded. -/
theorem encodedEventExactlyOnOk : Obligations.EncodedEventExactlyOnOk := by
  intro i s t wire hi h
  rw [← takesPacket_tx_iff]
  exact (exec_command_ending i s t hi h).delivery_mem_iff .tx wire

/-- Settles O17: RX's delivery is on_decoded. -/
theorem decodedEventExactlyOnOk : Obligations.DecodedEventExactlyOnOk := by
  intro i s t payload hi h
  rw [← takesPacket_rx_iff]
  exact (exec_command_ending i s t hi h).delivery_mem_iff .rx payload

/-- An error event comes from a fatal error of its direction, with its code. -/
theorem Ending.of_onError_mem {i : Instr} {s t : State} {d : Side} {c : Code} (h : Ending i s t)
    (hmem : .event (.onError d c) ∈ newOutputs s t) :
    dies d s t ∧ newOutputs s t = [.event (.onError d c), .response ⟨c, []⟩] ∧ c.fatal = true ∧
      (t.dir d).err = c.nibble := by
  cases h with
  | responded r hout _ _ _ => simp [hout] at hmem
  | delivered d' data _ hout _ => simp [hout, (delivery_ne_onError d' d data c).symm] at hmem
  | died d' c' hdies _ hout hfatal herr =>
    obtain ⟨rfl, rfl⟩ : d = d' ∧ c = c' := by simpa [hout] using hmem
    exact ⟨hdies, hout, hfatal, herr⟩

theorem Ending.onError_mem_of_dies {i : Instr} {s t : State} {d : Side} (h : Ending i s t) (hdies : dies d s t) :
    ∃ c, .event (.onError d c) ∈ newOutputs s t := by
  cases h with
  | responded _ _ hlive _ _ => exact absurd hdies (hlive d)
  | delivered _ _ _ _ hlive => exact absurd hdies (hlive d)
  | died d' c _ hother hout _ _ =>
    obtain rfl := hother d hdies
    exact ⟨c, by simp [hout]⟩

/-- Settles O18: of the three endings only a fatal error takes a direction from READY to DEAD, and only it emits on_error. -/
theorem errorEventExactlyOnDeath : Obligations.ErrorEventExactlyOnDeath := by
  intro i s t d hi h
  have hending := exec_command_ending i s t hi h
  refine ⟨⟨?event, hending.onError_mem_of_dies⟩, fun c hmem => (hending.of_onError_mem hmem).2⟩
  case event =>
    rintro ⟨c, hmem⟩
    exact (hending.of_onError_mem hmem).1

/-- The code IllegalState is not fatal and not OK, so it is a response alone. -/
theorem Ending.notAllowed_of_illegalState_mem {i : Instr} {s t : State} {data : Bytes} (h : Ending i s t)
    (hmem : .response ⟨.illegalState, data⟩ ∈ newOutputs s t) : notAllowed i s := by
  cases h with
  | responded r hout _ _ hillegal =>
    obtain rfl : _ = r := by simpa [hout] using hmem
    exact hillegal rfl
  | delivered d data' _ hout _ => simp [hout] at hmem
  | died d c _ _ hout hfatal _ =>
    obtain ⟨rfl, rfl⟩ : Code.illegalState = c ∧ data = [] := by simpa [hout] using hmem
    cases hfatal

/-- Settles O30: the state check comes first in each of the four commands, and no other ending answers IllegalState. -/
theorem illegalStateExactlyWhere : Obligations.IllegalStateExactlyWhere := by
  refine ⟨fun s key iv hstatus => ?txInit, fun s key iv hstatus => ?rxInit, fun s payload hstatus => ?txEncode,
    fun s wire hstatus => ?rxDecode,
    fun i s t data hi h => (exec_command_ending i s t hi h).notAllowed_of_illegalState_mem⟩
  case txInit => rw [exec_txInit, initDir_of_not_unconfigured .tx key iv s hstatus, reject_eq]
  case rxInit => rw [exec_rxInit, initDir_of_not_unconfigured .rx key iv s hstatus, reject_eq]
  case txEncode => rw [exec_txEncode, execTxEncode_illegal s payload hstatus, reject_eq]
  case rxDecode => rw [exec_rxDecode, execRxDecode_illegal s wire hstatus, reject_eq]

/-- Settles O43: of the five moves of a direction, a DEAD one can only be closed or kept. -/
theorem deadUntilClosed : Obligations.DeadUntilClosed := by
  intro i s t d hi hdead h hopen
  have hnotReady : (s.dir d).status ≠ .ready := by simp [hdead]
  cases exec_dirMove i d s t h with
  | kept hdir _ => exact hdir
  | configured _ hfrom _ _ _ => exact absurd (hdead.symm.trans hfrom) nofun
  | closed hclose _ _ => exact absurd hclose hopen
  | worked hruns _ _ _ _ => exact absurd ((runsOn_command hi).mp hruns) hnotReady
  | died hruns _ _ _ _ _ => exact absurd ((runsOn_command hi).mp hruns) hnotReady

end Sys2Proof.Machine
end

section
/-! What a command other than TX_ENCODE and RX_DECODE answers does not depend on the keys and the shift registers (60_exceptions.md R264): the read-outs show other fields, and an `*_INIT` answers by the status and the lengths of its operands. -/

namespace Sys2Proof.Machine

/-- The state with other keys and shift registers. -/
def State.withSecrets (s : State) (k1 k2 : Key) (v1 v2 : Block) : State :=
  { s with tx := { s.tx with key := k1, shift := v1 }, rx := { s.rx with key := k2, shift := v2 } }

theorem withSecrets_status (s : State) (k1 k2 : Key) (v1 v2 : Block) (d : Side) :
    ((s.withSecrets k1 k2 v1 v2).dir d).status = (s.dir d).status := by cases d <;> rfl

theorem setDir_out (s : State) (d : Side) (x : Dir) : (s.setDir d x).out = s.out := by cases d <;> rfl

/-- The code an `*_INIT` answers (43_tx_encode.md R180, 44_rx_decode.md R200). -/
def initCode (status : Status) (key iv : Bytes) : Code :=
  if status ≠ .unconfigured then .illegalState
  else if key.length = 32 ∧ iv.length = 16 then .ok
  else .configurationError

theorem initDir_out (d : Side) (key iv : Bytes) (s : State) :
    (initDir d key iv s).out = s.out ++ [.response ⟨initCode (s.dir d).status key iv, []⟩] := by
  rcases initDir_cases d key iv s with ⟨hstatus, hinit⟩ | ⟨hstatus, hlen, hinit⟩ |
    ⟨hstatus, hkey, hiv, k, v, _, _, hinit⟩
  · simp [hinit, initCode, hstatus, reject_eq]
  · have hlen' : ¬ (key.length = 32 ∧ iv.length = 16) := by tauto
    simp [hinit, initCode, hstatus, reject_eq, hlen']
  · simp [hinit, initCode, hstatus, hkey, hiv, setDir_out]

theorem initDir_withSecrets_out (d : Side) (key iv : Bytes) (s : State) (k1 k2 : Key) (v1 v2 : Block) :
    (initDir d key iv (s.withSecrets k1 k2 v1 v2)).out = (initDir d key iv s).out := by
  rw [initDir_out, initDir_out, withSecrets_status]
  rfl

/-- Settles O48: each answer is a fixed one, the bytes of a register, or the code of an `*_INIT`. -/
theorem keysNeverAnswered : Obligations.KeysNeverAnswered := by
  intro i s t k1 k2 v1 v2 hi hencode hdecode h
  cases i <;> simp only [Instr.isCommand, Bool.false_eq_true] at hi
  case txEncode payload => exact absurd rfl (hencode payload)
  case rxDecode wire => exact absurd rfl (hdecode wire)
  case txInit key iv =>
    cases h
    exact ⟨_, rfl, initDir_withSecrets_out .tx key iv s k1 k2 v1 v2⟩
  case rxInit key iv =>
    cases h
    exact ⟨_, rfl, initDir_withSecrets_out .rx key iv s k1 k2 v1 v2⟩
  case reset | txClose | rxClose | rdTxStatus | rdRxStatus | rdSendCtr | rdRecvCtr | rdMonStatus =>
    cases h
    exact ⟨_, rfl, rfl⟩

end Sys2Proof.Machine
end

section
/-! The hardware reset input and the state after reset (70_reset_and_hazards.md R290, R291, R305): the values seen through the read-outs, and what each command answers there. -/

namespace Sys2Proof.Machine

/-! The reset input. -/

theorem step_resetInput (s : State) (tail : List PortInput) (hrest : s.atRest) (hport : s.port = .resetInput :: tail) :
    step s = .next (answerResetInput { s with port := tail }) := by
  obtain ⟨htx, hrx⟩ := hrest
  simp [step, htx, hrx, hport]

/-- Settles O7: the step takes the reset input off the port and answers it. -/
theorem resetInputClearsBlock : Obligations.ResetInputClearsBlock := by
  intro s tail hrest hport
  rw [step_resetInput s tail hrest hport, answerResetInput_eq]
  rfl

/-! The values after reset. -/

theorem statusByte_reset : statusByte Dir.reset = 0x00#8 := rfl

theorem monStatusByte_reset : monStatusByte State.reset = 0x00#8 := rfl

theorem ctrBytes_zero : ctrBytes 0#64 = List.replicate 8 0x00#8 := leBytes_zero_value 8

theorem Dir.reset_values :
    Dir.reset.status = .unconfigured ∧ Dir.reset.err = 0#4 ∧ Dir.reset.ctr = 0#64 ∧
      Dir.reset.key.toList = List.replicate 32 0#8 ∧ Dir.reset.shift.toList = List.replicate 16 0#8 :=
  ⟨rfl, rfl, rfl, Vector.toList_replicate, Vector.toList_replicate⟩

/-! The answers after reset: a command without an effect leaves `State.reset` with its response. -/

theorem closeDir_resetState (d : Side) : closeDir d State.reset = State.reset := by cases d <;> rfl

theorem exec_reset_resetState : exec .reset State.reset = .next (State.reset.respond .ok []) := by
  rw [exec_reset, closeDir_resetState, closeDir_resetState]

theorem exec_txClose_resetState : exec .txClose State.reset = .next (State.reset.respond .ok []) := by
  rw [exec_txClose, closeDir_resetState]

theorem exec_rxClose_resetState : exec .rxClose State.reset = .next (State.reset.respond .ok []) := by
  rw [exec_rxClose, closeDir_resetState]

theorem exec_txEncode_resetState (payload : Bytes) :
    exec (.txEncode payload) State.reset = .next (State.reset.respond .illegalState []) := by
  rw [exec_txEncode, execTxEncode_illegal State.reset payload nofun, reject]

theorem exec_rxDecode_resetState (wire : Bytes) :
    exec (.rxDecode wire) State.reset = .next (State.reset.respond .illegalState []) := by
  rw [exec_rxDecode, execRxDecode_illegal State.reset wire nofun, reject]

theorem exec_statusReadOut_resetState (i : Instr) (hi : i ∈ [Instr.rdTxStatus, .rdRxStatus, .rdMonStatus]) :
    exec i State.reset = .next (State.reset.respond .ok [0x00#8]) := by
  simp only [List.mem_cons, List.not_mem_nil, or_false] at hi
  rcases hi with rfl | rfl | rfl
  · rw [exec_rdTxStatus, reset_tx, statusByte_reset]; rfl
  · rw [exec_rdRxStatus, reset_rx, statusByte_reset]; rfl
  · rw [exec_rdMonStatus, monStatusByte_reset]; rfl

theorem exec_ctrReadOut_resetState (i : Instr) (hi : i ∈ [Instr.rdSendCtr, .rdRecvCtr]) :
    exec i State.reset = .next (State.reset.respond .ok (List.replicate 8 0x00#8)) := by
  simp only [List.mem_cons, List.not_mem_nil, or_false] at hi
  rw [← ctrBytes_zero]
  rcases hi with rfl | rfl
  · exact exec_rdSendCtr State.reset
  · exact exec_rdRecvCtr State.reset

/-- R291: every command but the two that configure a direction only answers. -/
theorem exec_command_resetState (i : Instr) (hi : i.isCommand = true) (htx : ¬ configures .tx i)
    (hrx : ¬ configures .rx i) : ∃ c data, exec i State.reset = .next (State.reset.respond c data) := by
  cases i <;> simp only [Instr.isCommand, Bool.false_eq_true] at hi
  case txInit key iv => exact absurd (.inl ⟨rfl, key, iv, rfl⟩) htx
  case rxInit key iv => exact absurd (.inr ⟨rfl, key, iv, rfl⟩) hrx
  case reset => exact ⟨_, _, exec_reset_resetState⟩
  case txClose => exact ⟨_, _, exec_txClose_resetState⟩
  case rxClose => exact ⟨_, _, exec_rxClose_resetState⟩
  case txEncode payload => exact ⟨_, _, exec_txEncode_resetState payload⟩
  case rxDecode wire => exact ⟨_, _, exec_rxDecode_resetState wire⟩
  case rdTxStatus | rdRxStatus | rdMonStatus => exact ⟨_, _, exec_statusReadOut_resetState _ (by simp)⟩
  case rdSendCtr | rdRecvCtr => exact ⟨_, _, exec_ctrReadOut_resetState _ (by simp)⟩

/-- Settles O11: both directions are `Dir.reset`, whose register bytes are zero; the answers are those of the lemmas above. -/
theorem resetValuesAndAnswers : Obligations.ResetValuesAndAnswers := by
  refine ⟨?values, congrArg (some [·]) statusByte_reset, congrArg (some [·]) statusByte_reset,
    congrArg some ctrBytes_zero, congrArg some ctrBytes_zero, congrArg (some [·]) monStatusByte_reset, ?commands,
    exec_txEncode_resetState, exec_rxDecode_resetState, exec_statusReadOut_resetState, exec_ctrReadOut_resetState⟩
  case values =>
    rintro x (rfl | rfl) <;> exact Dir.reset_values
  case commands =>
    intro i hi htx hrx
    obtain ⟨c, data, hexec⟩ := exec_command_resetState i hi htx hrx
    exact ⟨⟨c, data⟩, hexec⟩

end Sys2Proof.Machine
end
